-- ==== Sys2Proof/Word.lean ====
section
/-! DEFINITION.
The word types of the NSSC-II (R7, R11 of spec/00_scope.md). Bits are numbered from the left in the manual (R8):
bit 0 of a w-bit quantity is the bit of weight 2^(w-1).
-/
namespace Sys2Proof

/-- Eight bits of storage (R60). -/
abbrev Byte := BitVec 8
/-- Two bytes (R63). -/
abbrev Half := BitVec 16
/-- Four bytes, one general register (R63, R20). -/
abbrev Word := BitVec 32
/-- Eight bytes, or an even/odd pair of general registers (R63, R21). -/
abbrev Dword := BitVec 64
/-- A 20-bit storage address (R61). -/
abbrev Addr := BitVec 20
/-- A four-bit register designation (R101). -/
abbrev Reg := BitVec 4
/-- A twelve-bit displacement (R108). -/
abbrev Disp := BitVec 12
/-- A condition code, 0 to 3 (R30). -/
abbrev Cc := BitVec 2

end Sys2Proof
end

