-- ==== Sys2Proof/Config.lean ====
section
/-! DEFINITION.
What an installation fixes (the open parameters of spec/92_eei_decisions.md, R7 of spec/00_scope.md) and the
source of the values the manual leaves open (spec/93_implementation_defined.md, treatment "any value").
-/
namespace Sys2Proof

/-- Which options are installed (R2, R7): an instruction of an absent option is an unassigned operation code (R125). -/
structure Options where
  /-- `HAS_SHORT`, the short precision option. -/
  short : Bool
  /-- `HAS_DOUBLE`, the double precision fixed-point option. -/
  double : Bool
  /-- `HAS_FLOAT`, the floating-point option. -/
  float : Bool
  deriving DecidableEq, Repr

/-- Every option installed. -/
def Options.all : Options := { short := true, double := true, float := true }

/-- `BIO_ENTRY_LAYOUT` (R525): the byte offsets of the four halfwords inside an eight-byte table entry. -/
structure EntryLayout where
  inAddr : Nat
  inCount : Nat
  outAddr : Nat
  outCount : Nat
  deriving DecidableEq, Repr

/-- The open parameters of the machine (R7). They are fixed for an installation: no step changes them. -/
structure Params where
  /-- `MEMSIZE`, bytes of installed storage (R64). -/
  memSize : Nat
  /-- the installed options -/
  opts : Options
  /-- `SIO_RESET_PATTERN`: the left bytes of a command word that mean RESET INTERFACE (R304; log 22). -/
  sioReset : List Byte
  /-- `SIO_TEST_PATTERN`: the left bytes of a command word that mean TEST INTERFACE (R304; log 22). -/
  sioTest : List Byte
  /-- `BIO_ENTRY_LAYOUT` (R525). -/
  layout : EntryLayout
  /-- `TSE_TYPEWRITER_OUTPUT_MODE` (R535). -/
  typewriterOutput : Half
  deriving DecidableEq, Repr

/-- Four disjoint halfwords inside eight bytes (the constraint on `BIO_ENTRY_LAYOUT`). -/
def EntryLayout.wf (e : EntryLayout) : Bool :=
  let os := [e.inAddr, e.inCount, e.outAddr, e.outCount]
  os.all (· ≤ 6) && os.all fun a => (os.filter fun b => a < b + 2 && b < a + 2).length == 1

/-- The constraints of spec/92_eei_decisions.md on the open parameters: D1 on `MEMSIZE`, D15 on the two patterns,
D30 on the table layout. -/
def Params.wf (p : Params) : Bool :=
  p.memSize % 1024 == 0 && decide (1024 ≤ p.memSize) && decide (p.memSize ≤ 2 ^ 20) &&
  p.sioReset.all (fun b => b != 0xFF#8 && b != 0x00#8 && !p.sioTest.contains b) &&
  p.sioTest.all (fun b => b != 0xFF#8 && b != 0x00#8) &&
  p.layout.wf

/-- The installation that `State.reset` names (DESIGN CHOICE, log 1): all 2^20 bytes of storage, every option, the
default layout of R525 and the default command word of R535; the two SIO patterns are not recoverable from the manual. -/
def Params.standard : Params :=
  { memSize := 2 ^ 20
    opts := Options.all
    sioReset := [0xF0#8]
    sioTest := [0x0F#8]
    layout := { inAddr := 0, inCount := 2, outAddr := 4, outCount := 6 }
    typewriterOutput := 0xFF61#16 }

/-- FREE VALUE. The n-th value that the manual leaves open (spec/93_implementation_defined.md, "any value"; log 10).
It has no body: nothing can be proved of it. -/
opaque Config.freeBits : Nat → BitVec 64

end Sys2Proof
end

