-- ==== Sys2Proof/Machine/State.lean ====
section
/-! DEFINITION.
The state of the NSSC-II as plain data (spec/10_state.md, spec/60_exceptions.md sections 7 and 8,
spec/70_reset_and_hazards.md), the two ways a step can stop, and the state after system reset (R45, R550).
-/
namespace Sys2Proof.Machine

/-- The program status word without its interruption code and instruction-length code, which are not part of the
current PSW (R24 to R33; D3). -/
structure Psw where
  /-- system mask, bits 0-7 (R25) -/
  sm : Byte
  /-- bits 8-11, which must be zero when an instruction is fetched (R26, R478) -/
  key : BitVec 4
  /-- bit 12, ASCII mode (R27) -/
  a : Bool
  /-- bit 13, machine-check mask (R27) -/
  m : Bool
  /-- bit 14, wait state (R27) -/
  w : Bool
  /-- bit 15, problem state (R27) -/
  p : Bool
  /-- condition code, bits 34-35 (R30) -/
  cc : Cc
  /-- program mask, bits 36-39 (R31) -/
  pm : BitVec 4
  /-- bit 40 (R32) -/
  b40 : Bool
  /-- bits 41-43 (R32) -/
  b41 : BitVec 3
  /-- instruction address, bits 44-63 (R33) -/
  ia : Addr
  deriving DecidableEq, Repr

/-- The machine mode (R40). Running and waiting are both `operating`, PSW bit 14 deciding. -/
inductive Mode where
  | operating
  | softStop
  | hung
  deriving DecidableEq, Repr

/-- A burst of buffered I/O in progress: the running address and count that the channel holds (R527). -/
structure Burst where
  device : BitVec 4
  input : Bool
  addr : Half
  count : Half
  deriving DecidableEq, Repr

/-- The typewriter mode that the TSE commands select (R535, R536). -/
inductive TypewriterMode where
  | none
  | output
  | input
  deriving DecidableEq, Repr

/-- The test support equipment as far as a program reaches it (R535): the panel registers, which are the operator's
switches, the typewriter mode, and whether the tape is advancing. -/
structure Tse where
  panelAddr : BitVec 24
  panelData : Word
  typewriter : TypewriterMode
  tapeRunning : Bool
  deriving DecidableEq, Repr

/-- One access of a DMA device to main storage (R517), to the halfword numbered `h`. -/
inductive DmaAccess where
  /-- a store -/
  | write (h : BitVec 19) (w : Half)
  /-- a read -/
  | read (h : BitVec 19)
  deriving DecidableEq, Repr

/-- An item of the tape that PROGRAM LOAD reads (R554). -/
inductive TapeItem where
  /-- an address word -/
  | address (w : Half)
  /-- a data word -/
  | data (w : Half)
  /-- the stop item -/
  | stop
  /-- a tape read error, or an I/O interruption request during the load -/
  | error
  /-- not on the tape: a DMA access between two of its words (R517) -/
  | dma (x : DmaAccess)
  deriving DecidableEq, Repr

/-- What comes with a request on the channel besides its code word. -/
structure Payload where
  /-- the halfword of a buffered input, or the data switches of WRITEMAIN -/
  data : Half
  /-- the address switches of READMAIN and WRITEMAIN -/
  addr : Addr
  /-- the tape of PROGRAM LOAD -/
  tape : List TapeItem
  /-- a parity error in a buffered transfer -/
  fails : Bool
  /-- the halfword at which MEMORY CLEAR meets a miscompare or a parity error, and what it then holds -/
  clearFails : Option (BitVec 19 × Half)
  /-- the request comes from the device that holds the channel -/
  holder : Bool
  deriving DecidableEq, Repr

/-- What a parity error has done to the registers, the storage operands and the condition code of the instruction that
was executing (R510, D28). -/
structure Damage where
  gr : List (Reg × Word)
  fpr : List (BitVec 2 × Word)
  bytes : List (Addr × Byte)
  cc : Cc
  deriving DecidableEq, Repr

/-- The values that system reset leaves in what the manual does not state (R45, R550, D36). -/
structure ResetImage where
  gr : Vector Word 16
  fpr : Vector Word 4
  psw : Psw
  keys : List (Nat × BitVec 2)
  rtc : Word
  chanBusy : Bool
  mem : List Host.Cell
  deriving DecidableEq, Repr

/-- What happens at the next boundary (R477): an agent other than the CPU acts, or the CPU does. -/
inductive Move where
  /-- the CPU acts -/
  | cpu
  /-- a timer pulse (R507) -/
  | tick
  /-- a device or the TSE presents a channel code word (R501, R515) -/
  | request (code : Half) (p : Payload)
  /-- a device takes or releases the channel (R39, R520) -/
  | busy (b : Bool)
  /-- a device makes ready a word for DIRECT INPUT (R515) -/
  | deviceWord (w : Half)
  /-- the operator sets the panel switches (R535) -/
  | panel (addr : BitVec 24) (data : Word)
  /-- a DMA access between two instructions (R517); those inside an instruction are in the field `dma` -/
  | dma (x : DmaAccess)
  /-- a storage parity error (R510) -/
  | parityError (d : Damage)
  /-- the system reset button (R550) -/
  | systemReset (image : ResetImage)
  deriving DecidableEq, Repr

/-- What leaves the machine. -/
inductive Sent where
  /-- a DIRECT OUTPUT command word with its data word (R516) -/
  | output (cmd w : Half)
  /-- a DIRECT INPUT command word with the data word presented (R305) -/
  | input (cmd w : Half)
  /-- RESET INTERFACE (R516) -/
  | resetInterface
  /-- TEST INTERFACE (R516) -/
  | testInterface
  /-- a halfword of buffered output (R526) -/
  | buffered (device : BitVec 4) (w : Half)
  /-- the ZERO COUNT signal (R526, R527) -/
  | zeroCount (device : BitVec 4)
  /-- a halfword displayed by READMAIN or WRITEMAIN (R553) -/
  | displayed (w : Half)
  deriving DecidableEq, Repr

/-- The machine. -/
structure State where
  /-- the installation (R7) -/
  params : Params
  /-- the general registers (R20) -/
  gr : Vector Word 16
  /-- the floating-point registers 0, 2, 4, 6 (R23) -/
  fpr : Vector Word 4
  /-- the current program status word (R24) -/
  psw : Psw
  /-- the length in halfwords of the instruction last fetched (R29) -/
  ilc : BitVec 2
  /-- the instruction being executed is the subject of EXECUTE (R276) -/
  inExecute : Bool
  /-- main storage, in canonical form (R60) -/
  mem : List Host.Cell
  /-- the storage protect keys by block, in canonical form (R35) -/
  keys : List (Nat × BitVec 2)
  /-- the real time clock (R36) -/
  rtc : Word
  /-- the interval timer (R37) -/
  intimer : Half
  /-- a timer interruption request is pending (R38) -/
  pendTimer : Bool
  /-- an interrupt key request is pending (R38) -/
  pendKey : Bool
  /-- the I/O interruption request the channel presents (R38) -/
  pendIo : Option Half
  /-- the channel is busy (R39) -/
  chanBusy : Bool
  /-- the machine mode (R40) -/
  mode : Mode
  /-- the burst in progress (R527) -/
  burst : Option Burst
  /-- the test support equipment (R535) -/
  tse : Tse
  /-- the words devices have ready for DIRECT INPUT, next first (log 12) -/
  deviceWords : List Half
  /-- what has left the machine, latest first (log 12) -/
  outbox : List Sent
  /-- what the agents do at the next boundaries, next first; when it is empty the CPU acts (log 11) -/
  env : List Move
  /-- what DMA devices do before each of the next halfword accesses of the CPU and of buffered I/O and changes of a storage
  key, next first; before those that it does not reach they do nothing (R78, R90, D8; log 23) -/
  dma : List (List DmaAccess)
  /-- the halfwords that DMA devices have read, latest first (R517; log 12) -/
  dmaOut : List Half
  /-- how many free values have been drawn (log 10) -/
  drawn : Nat
  deriving DecidableEq, Repr

/-- Why a step stops although the machine would go on. -/
inductive Fault where
  /-- the installation parameters break the constraints of spec/92_eei_decisions.md (D1, D15, D30): no such machine
  exists. Raised by `step` alone. Safe: nothing is claimed of such a machine (log 32). -/
  | impossibleInstallation
  deriving DecidableEq, Repr

/-- Why a step has no meaning. -/
inductive Refusal where
  /-- the instruction has no meaning in this model yet. Raised by `exec`. Safe. -/
  | notModelled (mnemonic : String)
  /-- DIAGNOSE in supervisor state: the microprogram it branches to is not given (R301, D14). Safe. -/
  | diagnoseMicroprogram
  /-- an SIO command word of none of the four forms (R304, D15). Safe. -/
  | sioCommandUndefined
  /-- TMRS with a function code above 3 (R306, D18). Safe. -/
  | tmrsFunctionUndefined
  /-- an instruction in the last fullword of installed storage (R561, D33). Raised by the fetch. Safe. -/
  | lastFullword
  /-- a buffered I/O transfer with an odd data address (R526). Safe. -/
  | bufferedOddAddress
  /-- a TSE request with function code 0 or 12 to 15 (R552). Safe. -/
  | tseFunctionUndefined
  /-- a request whose code word the figure excludes (R501, R552): function code zero, bit 1 in an interruption request,
  or an INTIO word not of the form 8xxB. Safe. -/
  | deviceRequestUndefined
  /-- READMAIN or WRITEMAIN with an odd or unavailable switch address (R553). Safe. -/
  | tseAddressUndefined
  /-- PROGRAM LOAD with a data word before the first address word (R554). Safe. -/
  | tapeDataBeforeAddress
  deriving DecidableEq, Repr

/-- The PSW that the model names after reset (DESIGN CHOICE, log 4). -/
def Psw.zero : Psw :=
  { sm := 0, key := 0, a := false, m := false, w := false, p := false, cc := 0, pm := 0, b40 := false, b41 := 0, ia := 0 }

/-- The machine right after system reset (R45, R550): soft stop, the interval timer at its maximum, no request pending
(D17). What the manual leaves unspecified holds the value the log names (log 1 to 8, 10 to 12, 20, 33). -/
def State.reset : State :=
  { params := Params.standard
    gr := Vector.replicate 16 0
    fpr := Vector.replicate 4 0
    psw := Psw.zero
    ilc := 0
    inExecute := false
    mem := []
    keys := []
    rtc := 0
    intimer := 0xFFFF#16
    pendTimer := false
    pendKey := false
    pendIo := none
    chanBusy := false
    mode := .softStop
    burst := none
    tse := { panelAddr := 0, panelData := 0, typewriter := .none, tapeRunning := false }
    deviceWords := []
    outbox := []
    env := []
    dma := []
    dmaOut := []
    drawn := 0 }

end Sys2Proof.Machine
end

