-- ==== Sys2Proof/Machine/Memory.lean ====
section
/-! DEFINITION.
Sparse tables: main storage (R60) and the storage keys (R35) as lists of (number, value) pairs in one canonical form:
numbers strictly rising, and no entry equal to what an unlisted number reads as.
-/
namespace Sys2Proof.Machine

/-- What an unlisted address or block reads as: zero (DESIGN CHOICE, log 5 and 8). -/
abbrev unlisted (w : Nat) : BitVec w := 0#w

/-- The value a table holds at `a`. -/
def sparseGet {w : Nat} (a : Nat) : List (Nat × BitVec w) → BitVec w
  | [] => unlisted w
  | (k, v) :: r => if k = a then v else sparseGet a r

/-- The table without entries at `a`. -/
def sparseErase {w : Nat} (a : Nat) : List (Nat × BitVec w) → List (Nat × BitVec w)
  | [] => []
  | (k, v) :: r => if k = a then sparseErase a r else (k, v) :: sparseErase a r

/-- The table with an entry at `a`, put before the first greater number. -/
def sparseInsert {w : Nat} (a : Nat) (v : BitVec w) : List (Nat × BitVec w) → List (Nat × BitVec w)
  | [] => [(a, v)]
  | (k, u) :: r => if a < k then (a, v) :: (k, u) :: r else (k, u) :: sparseInsert a v r

/-- The table that holds `v` at `a` and is otherwise as before. -/
def sparseSet {w : Nat} (a : Nat) (v : BitVec w) (m : List (Nat × BitVec w)) : List (Nat × BitVec w) :=
  if v = unlisted w then sparseErase a m else sparseInsert a v (sparseErase a m)

/-- The canonical form of a table. -/
abbrev sparseWf {w : Nat} (m : List (Nat × BitVec w)) : Prop :=
  (m.map (·.1)).Pairwise (· < ·) ∧ ∀ c ∈ m, c.2 ≠ unlisted w

/-- A table in canonical form from any list, with only the numbers below a bound. -/
def sparseOf {w : Nat} (bound : Nat) (m : List (Nat × BitVec w)) : List (Nat × BitVec w) :=
  (m.filter fun c => c.1 < bound).foldr (fun c t => sparseSet c.1 c.2 t) []

/-- The canonical form of main storage. -/
abbrev Memory.wf (m : List Host.Cell) : Prop := sparseWf m

/-- The canonical form of the storage keys. -/
abbrev Keys.wf (k : List (Nat × BitVec 2)) : Prop := sparseWf k

end Sys2Proof.Machine
end

