-- ==== Sys2Proof/Syntax.lean ====
section
/-! DEFINITION.
The instructions of the NSSC-II: one constructor for each of the 171 rows of spec/opcode_table.json, named by its
mnemonic in lower case. The fields are those of R101 to R106; a field the instruction ignores (R112) is no argument.
In the floating-point rows r1 and r2 are floating-point register numbers. The fn of tmrs is the R1 field, a function
code (R306). The l of an SS row is the length field, one less than the number of bytes (R211, R202).
-/
namespace Sys2Proof

/-- One instruction (R120). -/
inductive Instr where
  -- Fixed-point arithmetic (R149)
  | lpr (r1 r2 : Reg)
  | lnr (r1 r2 : Reg)
  | ltr (r1 r2 : Reg)
  | lcr (r1 r2 : Reg)
  | lr (r1 r2 : Reg)
  | cr (r1 r2 : Reg)
  | ar (r1 r2 : Reg)
  | sr (r1 r2 : Reg)
  | mr (r1 r2 : Reg)
  | dr (r1 r2 : Reg)
  | alr (r1 r2 : Reg)
  | slr (r1 r2 : Reg)
  | sth (r1 x2 b2 : Reg) (d2 : Disp)
  | lh (r1 x2 b2 : Reg) (d2 : Disp)
  | ch (r1 x2 b2 : Reg) (d2 : Disp)
  | ah (r1 x2 b2 : Reg) (d2 : Disp)
  | sh (r1 x2 b2 : Reg) (d2 : Disp)
  | mh (r1 x2 b2 : Reg) (d2 : Disp)
  | cvd (r1 x2 b2 : Reg) (d2 : Disp)
  | cvb (r1 x2 b2 : Reg) (d2 : Disp)
  | st (r1 x2 b2 : Reg) (d2 : Disp)
  | l (r1 x2 b2 : Reg) (d2 : Disp)
  | c (r1 x2 b2 : Reg) (d2 : Disp)
  | a (r1 x2 b2 : Reg) (d2 : Disp)
  | s (r1 x2 b2 : Reg) (d2 : Disp)
  | m (r1 x2 b2 : Reg) (d2 : Disp)
  | d (r1 x2 b2 : Reg) (d2 : Disp)
  | al (r1 x2 b2 : Reg) (d2 : Disp)
  | sl (r1 x2 b2 : Reg) (d2 : Disp)
  | sra (r1 b2 : Reg) (d2 : Disp)
  | sla (r1 b2 : Reg) (d2 : Disp)
  | srda (r1 b2 : Reg) (d2 : Disp)
  | slda (r1 b2 : Reg) (d2 : Disp)
  | stm (r1 r3 b2 : Reg) (d2 : Disp)
  | lm (r1 r3 b2 : Reg) (d2 : Disp)
  -- Decimal format changes (R202)
  | mvo (l1 l2 : BitVec 4) (b1 : Reg) (d1 : Disp) (b2 : Reg) (d2 : Disp)
  | pack (l1 l2 : BitVec 4) (b1 : Reg) (d1 : Disp) (b2 : Reg) (d2 : Disp)
  | unpk (l1 l2 : BitVec 4) (b1 : Reg) (d1 : Disp) (b2 : Reg) (d2 : Disp)
  -- Logical operations (R215)
  | nr (r1 r2 : Reg)
  | clr (r1 r2 : Reg)
  | or (r1 r2 : Reg)
  | xr (r1 r2 : Reg)
  | la (r1 x2 b2 : Reg) (d2 : Disp)
  | stc (r1 x2 b2 : Reg) (d2 : Disp)
  | ic (r1 x2 b2 : Reg) (d2 : Disp)
  | n (r1 x2 b2 : Reg) (d2 : Disp)
  | cl (r1 x2 b2 : Reg) (d2 : Disp)
  | o (r1 x2 b2 : Reg) (d2 : Disp)
  | x (r1 x2 b2 : Reg) (d2 : Disp)
  | srl (r1 b2 : Reg) (d2 : Disp)
  | sll (r1 b2 : Reg) (d2 : Disp)
  | srdl (r1 b2 : Reg) (d2 : Disp)
  | sldl (r1 b2 : Reg) (d2 : Disp)
  | tm (i2 : Byte) (b1 : Reg) (d1 : Disp)
  | mvi (i2 : Byte) (b1 : Reg) (d1 : Disp)
  | ni (i2 : Byte) (b1 : Reg) (d1 : Disp)
  | cli (i2 : Byte) (b1 : Reg) (d1 : Disp)
  | oi (i2 : Byte) (b1 : Reg) (d1 : Disp)
  | xi (i2 : Byte) (b1 : Reg) (d1 : Disp)
  | mvn (l : Byte) (b1 : Reg) (d1 : Disp) (b2 : Reg) (d2 : Disp)
  | mvc (l : Byte) (b1 : Reg) (d1 : Disp) (b2 : Reg) (d2 : Disp)
  | mvz (l : Byte) (b1 : Reg) (d1 : Disp) (b2 : Reg) (d2 : Disp)
  | nc (l : Byte) (b1 : Reg) (d1 : Disp) (b2 : Reg) (d2 : Disp)
  | clc (l : Byte) (b1 : Reg) (d1 : Disp) (b2 : Reg) (d2 : Disp)
  | oc (l : Byte) (b1 : Reg) (d1 : Disp) (b2 : Reg) (d2 : Disp)
  | xc (l : Byte) (b1 : Reg) (d1 : Disp) (b2 : Reg) (d2 : Disp)
  | tr (l : Byte) (b1 : Reg) (d1 : Disp) (b2 : Reg) (d2 : Disp)
  | trt (l : Byte) (b1 : Reg) (d1 : Disp) (b2 : Reg) (d2 : Disp)
  -- Branching and EXECUTE (R264)
  | balr (r1 r2 : Reg)
  | bctr (r1 r2 : Reg)
  | bcr (m1 : BitVec 4) (r2 : Reg)
  | ex (r1 x2 b2 : Reg) (d2 : Disp)
  | bal (r1 x2 b2 : Reg) (d2 : Disp)
  | bct (r1 x2 b2 : Reg) (d2 : Disp)
  | bc (m1 : BitVec 4) (x2 b2 : Reg) (d2 : Disp)
  | bxh (r1 r3 b2 : Reg) (d2 : Disp)
  | bxle (r1 r3 b2 : Reg) (d2 : Disp)
  -- Status switching, START I/O, TIMER READ AND SET (R294)
  | spm (r1 : Reg)
  | ssk (r1 r2 : Reg)
  | svc (code : Byte)
  | ssm (b1 : Reg) (d1 : Disp)
  | lpsw (b1 : Reg) (d1 : Disp)
  | diagnose (i2 : Byte) (b1 : Reg) (d1 : Disp)
  | ts (b1 : Reg) (d1 : Disp)
  | tmrs (fn : BitVec 4) (r3 b2 : Reg) (d2 : Disp)
  | sio (r1 r3 b2 : Reg) (d2 : Disp)
  -- Short precision option (R327)
  | lfsr (r1 r2 : Reg)
  | ds (r1 x2 b2 : Reg) (d2 : Disp)
  | las (r1 x2 b2 : Reg) (d2 : Disp)
  | lts (r1 x2 b2 : Reg) (d2 : Disp)
  | as (r1 x2 b2 : Reg) (d2 : Disp)
  | cs (r1 x2 b2 : Reg) (d2 : Disp)
  | lt (r1 x2 b2 : Reg) (d2 : Disp)
  | xs (r1 x2 b2 : Reg) (d2 : Disp)
  | ns (r1 x2 b2 : Reg) (d2 : Disp)
  | cls (r1 x2 b2 : Reg) (d2 : Disp)
  | os (r1 x2 b2 : Reg) (d2 : Disp)
  | ms (r1 x2 b2 : Reg) (d2 : Disp)
  | ss (r1 x2 b2 : Reg) (d2 : Disp)
  | bu (x2 b2 : Reg) (d2 : Disp)
  | ls (r1 x2 b2 : Reg) (d2 : Disp)
  | tb (r1 x2 b2 : Reg) (d2 : Disp)
  | srls (r1 b2 : Reg) (d2 : Disp)
  | slls (r1 b2 : Reg) (d2 : Disp)
  | sras (r1 b2 : Reg) (d2 : Disp)
  | slas (r1 b2 : Reg) (d2 : Disp)
  | osi (r1 : Reg) (i2 : Half)
  | xsi (r1 : Reg) (i2 : Half)
  | lsi (r1 : Reg) (i2 : Half)
  | csi (r1 : Reg) (i2 : Half)
  | asi (r1 : Reg) (i2 : Half)
  | ssi (r1 : Reg) (i2 : Half)
  | tbi (r1 : Reg) (i2 : Half)
  | dsi (r1 : Reg) (i2 : Half)
  | msi (r1 : Reg) (i2 : Half)
  | nsi (r1 : Reg) (i2 : Half)
  | clsi (r1 : Reg) (i2 : Half)
  | lhi (r1 : Reg) (i2 : Half)
  | chi (r1 : Reg) (i2 : Half)
  | ahi (r1 : Reg) (i2 : Half)
  | shi (r1 : Reg) (i2 : Half)
  | mhi (r1 : Reg) (i2 : Half)
  | lpsr (r1 r2 : Reg)
  | lnsr (r1 r2 : Reg)
  | ltsr (r1 r2 : Reg)
  | lcsr (r1 r2 : Reg)
  | nsr (r1 r2 : Reg)
  | clsr (r1 r2 : Reg)
  | osr (r1 r2 : Reg)
  | xsr (r1 r2 : Reg)
  | lsr (r1 r2 : Reg)
  | csr (r1 r2 : Reg)
  | asr (r1 r2 : Reg)
  | ssr (r1 r2 : Reg)
  | msr (r1 r2 : Reg)
  | dsr (r1 r2 : Reg)
  | bur (r2 : Reg)
  | nrm (r1 r2 : Reg)
  | lhr (r1 r2 : Reg)
  -- Double precision option (R406)
  | lcdr (r1 r2 : Reg)
  | ldr (r1 r2 : Reg)
  | cdr (r1 r2 : Reg)
  | adr (r1 r2 : Reg)
  | sdr (r1 r2 : Reg)
  | std (r1 x2 b2 : Reg) (d2 : Disp)
  | ld (r1 x2 b2 : Reg) (d2 : Disp)
  | cd (r1 x2 b2 : Reg) (d2 : Disp)
  | ad (r1 x2 b2 : Reg) (d2 : Disp)
  | sd (r1 x2 b2 : Reg) (d2 : Disp)
  -- Floating-point option (R428)
  | lper (r1 r2 : Reg)
  | lner (r1 r2 : Reg)
  | lter (r1 r2 : Reg)
  | lcer (r1 r2 : Reg)
  | her (r1 r2 : Reg)
  | ler (r1 r2 : Reg)
  | cer (r1 r2 : Reg)
  | aer (r1 r2 : Reg)
  | ser (r1 r2 : Reg)
  | mer (r1 r2 : Reg)
  | der (r1 r2 : Reg)
  | aur (r1 r2 : Reg)
  | sur (r1 r2 : Reg)
  | ste (r1 x2 b2 : Reg) (d2 : Disp)
  | le (r1 x2 b2 : Reg) (d2 : Disp)
  | ce (r1 x2 b2 : Reg) (d2 : Disp)
  | ae (r1 x2 b2 : Reg) (d2 : Disp)
  | se (r1 x2 b2 : Reg) (d2 : Disp)
  | me (r1 x2 b2 : Reg) (d2 : Disp)
  | de (r1 x2 b2 : Reg) (d2 : Disp)
  | au (r1 x2 b2 : Reg) (d2 : Disp)
  | su (r1 x2 b2 : Reg) (d2 : Disp)
  deriving DecidableEq, Repr

end Sys2Proof
end

