-- ==== Sys2Proof/WellFormed.lean ====
section
/-! DEFINITION.
Which operand designations the spec admits: an even register for a pair (R111), a floating-point register number 0, 2, 4
or 6 (R422), a function code 0 to 3 for TMRS (R306). An ill-formed instruction still decodes and runs: it takes the
specification exception, and TMRS with a function code above 3 is refused.
-/
namespace Sys2Proof

/-- An even register number, as a register pair needs (R21, R111). -/
def evenReg (r : Reg) : Bool := !r.getLsbD 0

/-- A floating-point register number: 0, 2, 4 or 6 (R422). -/
def fpReg (r : Reg) : Bool := !r.getLsbD 0 && !r.getLsbD 3

/-- The operand designations of the instruction are ones the spec admits. -/
def Instr.wellFormed : Instr → Bool
  | .spm _ => true
  | .balr _ _ => true
  | .bctr _ _ => true
  | .bcr _ _ => true
  | .ssk _ _ => true
  | .svc _ => true
  | .lfsr _ _ => true
  | .lpr _ _ => true
  | .lnr _ _ => true
  | .ltr _ _ => true
  | .lcr _ _ => true
  | .nr _ _ => true
  | .clr _ _ => true
  | .or _ _ => true
  | .xr _ _ => true
  | .lr _ _ => true
  | .cr _ _ => true
  | .ar _ _ => true
  | .sr _ _ => true
  | .mr r1 _ => evenReg r1
  | .dr r1 _ => evenReg r1
  | .alr _ _ => true
  | .slr _ _ => true
  | .lcdr r1 r2 => evenReg r1 && evenReg r2
  | .ldr r1 r2 => evenReg r1 && evenReg r2
  | .cdr r1 r2 => evenReg r1 && evenReg r2
  | .adr r1 r2 => evenReg r1 && evenReg r2
  | .sdr r1 r2 => evenReg r1 && evenReg r2
  | .lper r1 r2 => fpReg r1 && fpReg r2
  | .lner r1 r2 => fpReg r1 && fpReg r2
  | .lter r1 r2 => fpReg r1 && fpReg r2
  | .lcer r1 r2 => fpReg r1 && fpReg r2
  | .her r1 r2 => fpReg r1 && fpReg r2
  | .ler r1 r2 => fpReg r1 && fpReg r2
  | .cer r1 r2 => fpReg r1 && fpReg r2
  | .aer r1 r2 => fpReg r1 && fpReg r2
  | .ser r1 r2 => fpReg r1 && fpReg r2
  | .mer r1 r2 => fpReg r1 && fpReg r2
  | .der r1 r2 => fpReg r1 && fpReg r2
  | .aur r1 r2 => fpReg r1 && fpReg r2
  | .sur r1 r2 => fpReg r1 && fpReg r2
  | .sth _ _ _ _ => true
  | .la _ _ _ _ => true
  | .stc _ _ _ _ => true
  | .ic _ _ _ _ => true
  | .ex _ _ _ _ => true
  | .bal _ _ _ _ => true
  | .bct _ _ _ _ => true
  | .bc _ _ _ _ => true
  | .lh _ _ _ _ => true
  | .ch _ _ _ _ => true
  | .ah _ _ _ _ => true
  | .sh _ _ _ _ => true
  | .mh _ _ _ _ => true
  | .ds _ _ _ _ => true
  | .cvd _ _ _ _ => true
  | .cvb _ _ _ _ => true
  | .st _ _ _ _ => true
  | .las _ _ _ _ => true
  | .lts _ _ _ _ => true
  | .as _ _ _ _ => true
  | .n _ _ _ _ => true
  | .cl _ _ _ _ => true
  | .o _ _ _ _ => true
  | .x _ _ _ _ => true
  | .l _ _ _ _ => true
  | .c _ _ _ _ => true
  | .a _ _ _ _ => true
  | .s _ _ _ _ => true
  | .m r1 _ _ _ => evenReg r1
  | .d r1 _ _ _ => evenReg r1
  | .al _ _ _ _ => true
  | .sl _ _ _ _ => true
  | .std r1 _ _ _ => evenReg r1
  | .cs _ _ _ _ => true
  | .lt _ _ _ _ => true
  | .xs _ _ _ _ => true
  | .ns _ _ _ _ => true
  | .cls _ _ _ _ => true
  | .os _ _ _ _ => true
  | .ld r1 _ _ _ => evenReg r1
  | .cd r1 _ _ _ => evenReg r1
  | .ad r1 _ _ _ => evenReg r1
  | .sd r1 _ _ _ => evenReg r1
  | .ste r1 _ _ _ => fpReg r1
  | .ms _ _ _ _ => true
  | .ss _ _ _ _ => true
  | .bu _ _ _ => true
  | .ls _ _ _ _ => true
  | .tb _ _ _ _ => true
  | .le r1 _ _ _ => fpReg r1
  | .ce r1 _ _ _ => fpReg r1
  | .ae r1 _ _ _ => fpReg r1
  | .se r1 _ _ _ => fpReg r1
  | .me r1 _ _ _ => fpReg r1
  | .de r1 _ _ _ => fpReg r1
  | .au r1 _ _ _ => fpReg r1
  | .su r1 _ _ _ => fpReg r1
  | .ssm _ _ => true
  | .lpsw _ _ => true
  | .diagnose _ _ _ => true
  | .bxh _ _ _ _ => true
  | .bxle _ _ _ _ => true
  | .srl _ _ _ => true
  | .sll _ _ _ => true
  | .sra _ _ _ => true
  | .sla _ _ _ => true
  | .srdl r1 _ _ => evenReg r1
  | .sldl r1 _ _ => evenReg r1
  | .srda r1 _ _ => evenReg r1
  | .slda r1 _ _ => evenReg r1
  | .stm _ _ _ _ => true
  | .tm _ _ _ => true
  | .mvi _ _ _ => true
  | .ts _ _ => true
  | .ni _ _ _ => true
  | .cli _ _ _ => true
  | .oi _ _ _ => true
  | .xi _ _ _ => true
  | .lm _ _ _ _ => true
  | .srls _ _ _ => true
  | .slls _ _ _ => true
  | .sras _ _ _ => true
  | .slas _ _ _ => true
  | .tmrs fn _ _ _ => decide (fn.toNat ≤ 3)
  | .sio _ _ _ _ => true
  | .osi _ _ => true
  | .xsi _ _ => true
  | .lsi _ _ => true
  | .csi _ _ => true
  | .asi _ _ => true
  | .ssi _ _ => true
  | .tbi _ _ => true
  | .dsi _ _ => true
  | .msi _ _ => true
  | .nsi _ _ => true
  | .clsi _ _ => true
  | .lhi _ _ => true
  | .chi _ _ => true
  | .ahi _ _ => true
  | .shi _ _ => true
  | .mhi _ _ => true
  | .lpsr _ _ => true
  | .lnsr _ _ => true
  | .ltsr _ _ => true
  | .lcsr _ _ => true
  | .nsr _ _ => true
  | .clsr _ _ => true
  | .osr _ _ => true
  | .xsr _ _ => true
  | .lsr _ _ => true
  | .csr _ _ => true
  | .asr _ _ => true
  | .ssr _ _ => true
  | .msr _ _ => true
  | .dsr _ _ => true
  | .bur _ => true
  | .nrm _ _ => true
  | .lhr _ _ => true
  | .mvn _ _ _ _ _ => true
  | .mvc _ _ _ _ _ => true
  | .mvz _ _ _ _ _ => true
  | .nc _ _ _ _ _ => true
  | .clc _ _ _ _ _ => true
  | .oc _ _ _ _ _ => true
  | .xc _ _ _ _ _ => true
  | .tr _ _ _ _ _ => true
  | .trt _ _ _ _ _ => true
  | .mvo _ _ _ _ _ _ => true
  | .pack _ _ _ _ _ _ => true
  | .unpk _ _ _ _ _ _ => true

end Sys2Proof
end

