-- ==== Sys2Proof/Machine/Ops.lean ====
section
/-! DEFINITION.
The named operations over registers, storage, keys and the PSW; taking an interruption (R470) and the load of a PSW that
returns from one (R296, R479); the values that a terminated instruction leaves (R480, D5).
-/
namespace Sys2Proof.Machine

/-- What a meaning answers. -/
abbrev Result := Host.Outcome State Fault Refusal

/-- `n` bits of `x` from bit `first` on, bits numbered from the left as in the manual (R8). -/
def slice {w : Nat} (x : BitVec w) (first n : Nat) : BitVec n := x.extractLsb' (w - first - n) n

/-! ## Registers (R20 to R23) -/

/-- General register `r`. -/
def State.reg (s : State) (r : Reg) : Word := s.gr[r.toNat]'r.isLt

/-- Write general register `r`. -/
def State.setReg (s : State) (r : Reg) (v : Word) : State := { s with gr := s.gr.set r.toNat v r.isLt }

/-- Bits 16-31 of general register `r` (R22). -/
def State.lo (s : State) (r : Reg) : Half := slice (s.reg r) 16 16

/-- Write bits 16-31 of general register `r` and leave bits 0-15 (R22). -/
def State.setLo (s : State) (r : Reg) (v : Half) : State := s.setReg r (slice (s.reg r) 0 16 ++ v)

/-- The odd register of the pair that `r` names (R21). -/
def oddOf (r : Reg) : Reg := r ||| 1#4

/-- The 64 bits of the register pair `r` (R21). -/
def State.pair (s : State) (r : Reg) : Dword := s.reg r ++ s.reg (oddOf r)

/-- Write the register pair `r` (R21). -/
def State.setPair (s : State) (r : Reg) (v : Dword) : State :=
  (s.setReg r (slice v 0 32)).setReg (oddOf r) (slice v 32 32)

/-- Where a floating-point register number 0, 2, 4 or 6 is held. -/
def fpIndex (r : Reg) : BitVec 2 := slice r 1 2

/-- Floating-point register `r` (R23). -/
def State.fp (s : State) (r : Reg) : Word := s.fpr[(fpIndex r).toNat]'(fpIndex r).isLt

/-- Write floating-point register `r`. -/
def State.setFp (s : State) (r : Reg) (v : Word) : State :=
  { s with fpr := s.fpr.set (fpIndex r).toNat v (fpIndex r).isLt }

/-- Set the condition code. -/
def State.setCc (s : State) (c : Cc) : State := { s with psw := { s.psw with cc := c } }

/-- Replace the instruction address: `pc <- t` (R9). -/
def State.setIa (s : State) (t : Addr) : State := { s with psw := { s.psw with ia := t } }

/-- Replace the system mask (R299). -/
def State.setSm (s : State) (m : Byte) : State := { s with psw := { s.psw with sm := m } }

/-- Replace the program mask (R297). -/
def State.setPm (s : State) (m : BitVec 4) : State := { s with psw := { s.psw with pm := m } }

/-- PSW bit 36, the fixed-point overflow mask (R31). -/
def State.maskOverflow (s : State) : Bool := s.psw.pm.getLsbD 3
/-- PSW bit 38, the exponent underflow mask (R31). -/
def State.maskUnderflow (s : State) : Bool := s.psw.pm.getLsbD 1
/-- PSW bit 39, the significance mask (R31). -/
def State.maskSignificance (s : State) : Bool := s.psw.pm.getLsbD 0
/-- System mask bit 0, I/O and interrupt key (R25). -/
def State.maskIo (s : State) : Bool := s.psw.sm.getLsbD 7
/-- System mask bit 7, timer (R25). -/
def State.maskTimer (s : State) : Bool := s.psw.sm.getLsbD 0

/-! ## Storage (R60 to R66) -/

/-- The byte at an address. -/
def State.byte (s : State) (a : Addr) : Byte := sparseGet a.toNat s.mem

/-- The halfword whose leftmost byte is at `a`, big-endian (R62). -/
def State.half (s : State) (a : Addr) : Half := s.byte a ++ s.byte (a + 1#20)

/-- The word whose leftmost byte is at `a` (R62). -/
def State.word (s : State) (a : Addr) : Word := s.half a ++ s.half (a + 2#20)

/-- The double word whose leftmost byte is at `a` (R62). -/
def State.dword (s : State) (a : Addr) : Dword := s.word a ++ s.word (a + 4#20)

/-- `n` bytes from `a` on, each address modulo 2^20 (R65). -/
def State.bytes (s : State) (a : Addr) : Nat → List Byte
  | 0 => []
  | n + 1 => s.byte a :: s.bytes (a + 1#20) n

/-- Change the byte at an address. -/
def State.setByte (s : State) (a : Addr) (v : Byte) : State := { s with mem := sparseSet a.toNat v s.mem }

/-- Change the bytes from `a` on, each address modulo 2^20 (R65). -/
def State.setBytes (s : State) (a : Addr) : List Byte → State
  | [] => s
  | b :: bs => (s.setByte a b).setBytes (a + 1#20) bs

/-- The bytes of a halfword, leftmost first. -/
def bytesOfHalf (v : Half) : List Byte := [slice v 0 8, slice v 8 8]
/-- The bytes of a word, leftmost first. -/
def bytesOfWord (v : Word) : List Byte := [slice v 0 8, slice v 8 8, slice v 16 8, slice v 24 8]
/-- The bytes of a double word, leftmost first. -/
def bytesOfDword (v : Dword) : List Byte := bytesOfWord (slice v 0 32) ++ bytesOfWord (slice v 32 32)

/-- Store a halfword at `a`. -/
def State.setHalf (s : State) (a : Addr) (v : Half) : State := s.setBytes a (bytesOfHalf v)
/-- Store a word at `a`. -/
def State.setWord (s : State) (a : Addr) (v : Word) : State := s.setBytes a (bytesOfWord v)
/-- Store a double word at `a`. -/
def State.setDword (s : State) (a : Addr) (v : Dword) : State := s.setBytes a (bytesOfDword v)

/-! ## Availability and protection (R64, R67, R72) -/

/-- The address is in installed storage (R64). -/
def State.available (s : State) (a : Addr) : Bool := decide (a.toNat < s.params.memSize)

/-- All of `n` bytes from `a` on are in installed storage (R67). -/
def State.availableN (s : State) (a : Addr) (n : Nat) : Bool :=
  (List.range n).all fun k => s.available (a + BitVec.ofNat 20 k)

/-- The block of 1024 bytes that an address lies in (R72). -/
def blockOf (a : Addr) : Nat := a.toNat / 1024

/-- The key of a block (R35). -/
def State.key (s : State) (block : Nat) : BitVec 2 := sparseGet block s.keys

/-- Set the key of a block (R298). -/
def State.setKey (s : State) (block : Nat) (k : BitVec 2) : State := { s with keys := sparseSet block k s.keys }

/-- The first bit of the key of the address's block: stores by the CPU and by buffered I/O are refused (R73). -/
def State.cpuProtected (s : State) (a : Addr) : Bool := (s.key (blockOf a)).getLsbD 1

/-- The second bit of the key of the address's block: stores by DMA are refused (R73). -/
def State.dmaProtected (s : State) (a : Addr) : Bool := (s.key (blockOf a)).getLsbD 0

/-- Some of `n` bytes from `a` on is protected against stores by the CPU (R71). -/
def State.cpuProtectedN (s : State) (a : Addr) (n : Nat) : Bool :=
  (List.range n).any fun k => s.cpuProtected (a + BitVec.ofNat 20 k)

/-! ## Direct memory access, at boundaries and inside an instruction (R78, R90, R517, D8) -/

/-- The address of the halfword numbered `h`. -/
def halfAddr (h : BitVec 19) : Addr := h ++ 0#1

/-- One access of a DMA device: an unavailable halfword is not accessed, a halfword in a block protected against DMA is not
changed (R517, R518). -/
def State.dmaAccess (s : State) : DmaAccess → State
  | .write h w =>
    if s.availableN (halfAddr h) 2 && !s.dmaProtected (halfAddr h) then s.setHalf (halfAddr h) w else s
  | .read h => if s.availableN (halfAddr h) 2 then { s with dmaOut := s.half (halfAddr h) :: s.dmaOut } else s

/-- Accesses of DMA devices one after the other. -/
def State.dmaAccesses (s : State) : List DmaAccess → State
  | [] => s
  | x :: xs => (s.dmaAccess x).dmaAccesses xs

/-- The moment of the next halfword access of the CPU or of buffered I/O, or of the next change of a storage key: what DMA
does before it has been done (R90). -/
def State.access (s : State) : State :=
  match s.dma with
  | [] => s
  | xs :: r => { s with dma := r }.dmaAccesses xs

/-- Read the byte at `a` (`MemRead(a, 1)`): the byte and the state at that moment. -/
def State.readByte (s : State) (a : Addr) : Byte × State := (s.access.byte a, s.access)

/-- Read the halfword at `a`, one access (D8). -/
def State.readHalf (s : State) (a : Addr) : Half × State := (s.access.half a, s.access)

/-- Read the word at `a`, halfword by halfword (D8). -/
def State.readWord (s : State) (a : Addr) : Word × State :=
  let x := s.readHalf a
  let y := x.2.readHalf (a + 2#20)
  (x.1 ++ y.1, y.2)

/-- Read the double word at `a`, halfword by halfword (D8). -/
def State.readDword (s : State) (a : Addr) : Dword × State :=
  let x := s.readWord a
  let y := x.2.readWord (a + 4#20)
  (x.1 ++ y.1, y.2)

/-- Read `n` halfwords of an instruction from `a` on: their bytes. -/
def State.readHalves (s : State) (a : Addr) : Nat → List Byte × State
  | 0 => ([], s)
  | n + 1 =>
    let y := s.access.readHalves (a + 2#20) n
    (s.access.byte a :: s.access.byte (a + 1#20) :: y.1, y.2)

/-- Store the byte at `a` (`MemWrite(a, 1, v)`). -/
def State.writeByte (s : State) (a : Addr) (v : Byte) : State := s.access.setByte a v

/-- Store the halfword at `a`, one access (D8). -/
def State.writeHalf (s : State) (a : Addr) (v : Half) : State := s.access.setHalf a v

/-- Store the word at `a`, halfword by halfword (D8). -/
def State.writeWord (s : State) (a : Addr) (v : Word) : State :=
  (s.writeHalf a (slice v 0 16)).writeHalf (a + 2#20) (slice v 16 16)

/-- Store the double word at `a`, halfword by halfword (D8). -/
def State.writeDword (s : State) (a : Addr) (v : Dword) : State :=
  (s.writeWord a (slice v 0 32)).writeWord (a + 4#20) (slice v 32 32)

/-! ## Program exceptions and interruptions (R470 to R480) -/

/-- The thirteen program exceptions (R480). -/
inductive ProgEx where
  | operation | privileged | execute | protection | addressing | specification | data
  | fixedOverflow | fixedDivide | exponentOverflow | exponentUnderflow | significance | floatDivide
  deriving DecidableEq, Repr

/-- The interruption code of a program exception (R471, R480). -/
def ProgEx.code : ProgEx → Half
  | .operation => 1
  | .privileged => 2
  | .execute => 3
  | .protection => 4
  | .addressing => 5
  | .specification => 6
  | .data => 7
  | .fixedOverflow => 8
  | .fixedDivide => 9
  | .exponentOverflow => 12
  | .exponentUnderflow => 13
  | .significance => 14
  | .floatDivide => 15

/-- The five classes of interruption (R474). -/
inductive IntClass where
  | external | supervisorCall | program | machineCheck | inputOutput
  deriving DecidableEq, Repr

/-- Where the old PSW of a class is stored (R474, R80). -/
def IntClass.oldLoc : IntClass → Addr
  | .external => 24
  | .supervisorCall => 32
  | .program => 40
  | .machineCheck => 48
  | .inputOutput => 56

/-- Where the new PSW of a class is fetched (R474, R80). -/
def IntClass.newLoc : IntClass → Addr
  | .external => 88
  | .supervisorCall => 96
  | .program => 104
  | .machineCheck => 112
  | .inputOutput => 120

/-- Bits 32-63 of a PSW as stored in an old PSW or as link information (R24, R271). -/
def Psw.right (p : Psw) (ilc : BitVec 2) : Word :=
  ilc ++ p.cc ++ p.pm ++ BitVec.ofBool p.b40 ++ p.b41 ++ p.ia

/-- Bits 0-15 of a PSW (R24). -/
def Psw.left (p : Psw) : Half :=
  p.sm ++ p.key ++ BitVec.ofBool p.a ++ BitVec.ofBool p.m ++ BitVec.ofBool p.w ++ BitVec.ofBool p.p

/-- The double word that an interruption stores (R470). -/
def Psw.pack (p : Psw) (code : Half) (ilc : BitVec 2) : Dword := p.left ++ code ++ p.right ilc

/-- The PSW that a double word supplies; bits 16-33 are dropped (R296, R470). -/
def Psw.unpack (d : Dword) : Psw :=
  { sm := slice d 0 8
    key := slice d 8 4
    a := d.getLsbD 51
    m := d.getLsbD 50
    w := d.getLsbD 49
    p := d.getLsbD 48
    cc := slice d 34 2
    pm := slice d 36 4
    b40 := d.getLsbD 23
    b41 := slice d 41 3
    ia := slice d 44 20 }

/-- Make the double word at `a` the current PSW (R296): the return from an interruption, and the last part of taking one.
The machine is then running or waiting as the new bit 14 says. -/
def State.loadPsw (s : State) (a : Addr) : State := { s with psw := Psw.unpack (s.dword a), mode := .operating }

/-- The old PSW of an interruption: for a machine check bit 40 is one (R470, R510). -/
def State.oldPsw (s : State) (c : IntClass) (code : Half) (ilc : BitVec 2) : Dword :=
  (if c = .machineCheck then { s.psw with b40 := true } else s.psw).pack code ilc

/-- TAKING AN INTERRUPTION (R470): the key of block 0 becomes 01 (R472), the old PSW is stored unchecked (D6), and the
new PSW becomes current unexamined. DMA has access before it; from the setting of the key on it can change neither PSW
(log 23). -/
def State.interrupt (s : State) (c : IntClass) (code : Half) (ilc : BitVec 2) : State :=
  ((s.access.setKey 0 1#2).setDword c.oldLoc (s.oldPsw c code ilc)).loadPsw c.newLoc

/-- `raise E` (R480): the program interruption of an exception, in the state that its ending leaves. The stored length is
that of the instruction last fetched (R473). -/
def raise (e : ProgEx) (s : State) : Result := .next (s.interrupt .program e.code s.ilc)

/-- The length code of a one-halfword instruction: 1, or 2 under EXECUTE (R270, R271, R498). -/
def State.shortIlc (s : State) : BitVec 2 := if s.inExecute then 2#2 else 1#2

/-! ## Checks of a storage operand (R70, R71) -/

/-- What a read of `n` bytes at `a` with the given alignment meets first (R70). -/
def State.loadError (s : State) (a : Addr) (n align : Nat) : Option ProgEx :=
  if !s.availableN a n then some .addressing
  else if a.toNat % align ≠ 0 then some .specification
  else none

/-- What a store of `n` bytes at `a` with the given alignment meets first (R71). -/
def State.storeError (s : State) (a : Addr) (n align : Nat) : Option ProgEx :=
  if !s.availableN a n then some .addressing
  else if a.toNat % align ≠ 0 then some .specification
  else if s.cpuProtectedN a n then some .protection
  else none

/-! ## Open values (spec/93_implementation_defined.md): the destinations of a terminated instruction (R480, D5) -/

/-- The next free value. -/
def State.free (s : State) : BitVec 64 := Config.freeBits s.drawn

/-- The state after a free value has been drawn. -/
def State.draw (s : State) : State := { s with drawn := s.drawn + 1 }

/-- General register `r` holds any value. -/
def spoilReg (r : Reg) (s : State) : State := (s.setReg r (s.free.setWidth 32)).draw

/-- Bits 16-31 of general register `r` hold any value. -/
def spoilLo (r : Reg) (s : State) : State := (s.setLo r (s.free.setWidth 16)).draw

/-- Bits 24-31 of general register `r` hold any value. -/
def spoilChar (r : Reg) (s : State) : State :=
  (s.setReg r (slice (s.reg r) 0 24 ++ (s.free.setWidth 8 : Byte))).draw

/-- Both registers of the pair `r` hold any value. An odd `r` names no pair: then register `r` alone does, the model's
choice (log 15). -/
def spoilPair (r : Reg) (s : State) : State := spoilReg (oddOf r) (spoilReg r s)

/-- `n` general registers from `r` on hold any value (R157). -/
def spoilRegs (r : Reg) : Nat → State → State
  | 0, s => s
  | n + 1, s => spoilRegs (r + 1) n (spoilReg r s)

/-- Floating-point register `r`, if there is one of that number, holds any value. -/
def spoilFp (r : Reg) (s : State) : State := if fpReg r then (s.setFp r (s.free.setWidth 32)).draw else s

/-- The condition code holds any value. -/
def spoilCc (s : State) : State := (s.setCc (s.free.setWidth 2)).draw

/-- The byte at `a` holds any value if it is available and unprotected (R75). -/
def spoilByte (a : Addr) (s : State) : State :=
  if s.available a && !s.cpuProtected a then (s.setByte a (s.free.setWidth 8)).draw else s

/-- Each of `n` bytes from `a` on that is available and unprotected holds any value (R75). -/
def spoilBytes (a : Addr) : Nat → State → State
  | 0, s => s
  | n + 1, s => spoilBytes (a + 1#20) n (spoilByte a s)

end Sys2Proof.Machine
end

