-- ==== Sys2Proof/Machine/Operands.lean ====
section
/-! DEFINITION.
Effective addresses (R108 to R110, R276) and the storage operands of instructions with their checks (R70, R71) and the
endings of the exceptions they meet (R480, R485).
-/
namespace Sys2Proof.Machine

/-! ## Effective addresses -/

/-- What a base field adds: nothing for field 0 (R109), but general register 0 in the subject of EXECUTE (R276, D10). -/
def State.base (s : State) (b : Reg) : Word := if b = 0#4 ∧ s.inExecute = false then 0#32 else s.reg b

/-- What an index field adds: nothing for field 0 (R109). -/
def State.index (s : State) (x : Reg) : Word := if x = 0#4 then 0#32 else s.reg x

/-- `EA(b, d)` of the RS, SI and SS formats, modulo 2^20 (R108). -/
def State.ea (s : State) (b : Reg) (d : Disp) : Addr := slice (s.base b) 12 20 + d.setWidth 20

/-- `EA(x, b, d)` of the RX format, modulo 2^20 (R108). -/
def State.eax (s : State) (x b : Reg) (d : Disp) : Addr :=
  slice (s.index x) 12 20 + slice (s.base b) 12 20 + d.setWidth 20

/-- The 24-bit sum of LOAD ADDRESS (R110, R239). -/
def State.ea24 (s : State) (x b : Reg) (d : Disp) : BitVec 24 :=
  slice (s.index x) 8 24 + slice (s.base b) 8 24 + d.setWidth 24

/-- The 16-bit sum of LOAD ADDRESS SHORT (R346). -/
def State.ea16 (s : State) (x b : Reg) (d : Disp) : Half :=
  slice (s.index x) 16 16 + slice (s.base b) 16 16 + d.setWidth 16

/-- A shift amount: the low-order six bits of the second operand address (R190). -/
def State.shiftAmount (s : State) (b : Reg) (d : Disp) : Nat := (s.ea b d).toNat % 64

/-- A branch address in a register (R260). -/
def State.branchReg (s : State) (r : Reg) : Addr := slice (s.reg r) 12 20

/-! ## Operands in storage -/

/-- Continue after the checks of a storage operand that is read (R70). Addressing terminates the instruction: its
destinations, which `spoil` names, hold any value (R485). Specification suppresses it (R486). -/
def afterLoad (s : State) (a : Addr) (n align : Nat) (spoil : State → State) (k : Result) : Result :=
  match s.loadError a n align with
  | none => k
  | some .addressing => raise .addressing (spoil s)
  | some e => raise e s

/-- Continue with what a read gives and the state after it. -/
def onRead {w : Nat} (x : BitVec w × State) (k : BitVec w → State → Result) : Result := k x.1 x.2

/-- A byte operand. -/
def withByte (s : State) (a : Addr) (spoil : State → State) (k : Byte → State → Result) : Result :=
  afterLoad s a 1 1 spoil (onRead (s.readByte a) k)

/-- A halfword operand. -/
def withHalf (s : State) (a : Addr) (spoil : State → State) (k : Half → State → Result) : Result :=
  afterLoad s a 2 2 spoil (onRead (s.readHalf a) k)

/-- A word operand. -/
def withWord (s : State) (a : Addr) (spoil : State → State) (k : Word → State → Result) : Result :=
  afterLoad s a 4 4 spoil (onRead (s.readWord a) k)

/-- A double word operand with the alignment its rule states (R401 or R185). -/
def withDword (s : State) (a : Addr) (align : Nat) (spoil : State → State) (k : Dword → State → Result) : Result :=
  afterLoad s a 8 align spoil (onRead (s.readDword a) k)

/-- Continue after the checks of a store of `n` bytes whose exceptions all suppress the instruction (R71, R485). -/
def afterStoreCheck (s : State) (a : Addr) (n align : Nat) (k : Result) : Result :=
  match s.storeError a n align with
  | none => k
  | some e => raise e s

/-- Continue if the register may name a pair, else suppress (R111). -/
def needEven (s : State) (r : Reg) (k : Result) : Result := if evenReg r then k else raise .specification s

/-- Continue if the number is a floating-point register's, else suppress (R422). -/
def needFp (s : State) (r : Reg) (k : Result) : Result := if fpReg r then k else raise .specification s

end Sys2Proof.Machine
end

