-- ==== Sys2Proof/Machine/Environment.lean ====
section
/-! DEFINITION.
The agents other than the CPU, which act at instruction boundaries (R477): the timer pulse (R507), the channel with its
devices (R515 to R530), the operator's test support equipment (R551 to R558), a parity error (R510), system reset (R550).
-/
namespace Sys2Proof.Machine

/-- Record what leaves the machine. -/
def State.send (s : State) (x : Sent) : State := { s with outbox := x :: s.outbox }

/-- Hard stop or hang (R511). -/
def State.hang (s : State) : State := { s with mode := .hung }

/-- Bit `k` of a channel code word, numbered from the left (R501). -/
def codeBit (w : Half) (k : Nat) : Bool := w.getLsbD (15 - k)

/-- The interval timer after one pulse, and its underflow (R506). -/
def State.countDown (s : State) : State :=
  { s with intimer := s.intimer - 1#16, pendTimer := s.pendTimer || s.intimer == 0#16 }

/-- One timer pulse (R507): no tick while a device holds the channel (R520) or the machine is hung (R511). -/
def State.tick (s : State) : State :=
  if s.chanBusy then s
  else
    let t := { s with rtc := s.rtc + 1#32 }
    match s.mode with
    | .hung => s
    | .softStop => t
    | .operating => t.countDown

/-! ## Buffered I/O (R525 to R530) -/

/-- The buffered I/O status word, the halfword at 66 (R81, R529). -/
def statusLoc : Addr := 66

/-- The channel address word, at 72 (R82). -/
def cawLoc : Addr := 72

/-- The control table entry of a device, from the channel address word (R525, D13). -/
def entryLoc (caw : Word) (d : BitVec 4) : Addr := slice caw 12 20 + d.setWidth 20 * 8#20

/-- Where the address field of the entry at `e` is, for input or output (R525). -/
def State.entryAddrLoc (s : State) (e : Addr) (input : Bool) : Addr :=
  e + BitVec.ofNat 20 (if input then s.params.layout.inAddr else s.params.layout.outAddr)

/-- Where the count field of the entry at `e` is, for input or output (R525). -/
def State.entryCountLoc (s : State) (e : Addr) (input : Bool) : Addr :=
  e + BitVec.ofNat 20 (if input then s.params.layout.inCount else s.params.layout.outCount)

/-- A program interruption that no instruction caused: its length code is 0 (R473(d), R530, D24). So it is in the wait state
too, the model's choice (log 43): there R473(f) and R512 call the length code of any interruption unpredictable. -/
def State.bufferedError (s : State) (code : Half) : State := { s with burst := none }.interrupt .program code 0#2

/-- The code word of the error interruption for a zero count: the device's tag, bit 1 zero, the other bits any value
(R528). -/
def zeroCountCode (d : BitVec 4) (v : BitVec 64) : Half :=
  (v.setWidth 16 &&& 0xBF0F#16) ||| (d.setWidth 16 <<< 4)

/-- The address and count of the table entry at `e`, with the state after reading them (R526). Each field is one access to
DMA. So it is at an odd address too, where the field lies in two aligned halfwords and D8 promises nothing: the model's
choice (log 54). -/
def State.tableFields (s : State) (e : Addr) (input : Bool) : Half × Half × State :=
  let x := s.readHalf (s.entryAddrLoc e input)
  let y := x.2.readHalf (s.entryCountLoc e input)
  (x.1, y.1, y.2)

/-- The address and count in force, with the state after reading them: the running ones of this device's burst, else those
of its table entry (R526, R527). They stay the running ones until the channel is released, also when the running count has
reached zero, so that a further request is then one with a zero count (R528). A request in the other direction takes that
direction's table entry. Both are the model's choice (log 47). -/
def State.bufferedFields (s : State) (d : BitVec 4) (e : Addr) (input : Bool) : Half × Half × State :=
  match s.burst with
  | some b => if b.device = d ∧ b.input = input then (b.addr, b.count, s) else s.tableFields e input
  | none => s.tableFields e input

/-- Store the device's halfword, or send the halfword in storage to the device (R526). -/
def State.moveHalf (s : State) (d : BitVec 4) (input : Bool) (a : Addr) (w : Half) : State :=
  if input then s.writeHalf a w
  else
    let x := s.readHalf a
    x.2.send (.buffered d x.1)

/-- The update after a halfword with a positive count: the table entry, whose two fields are at `al` and `cl`, moves on,
ZERO COUNT is signalled at zero, the status word is cleared (R526, R529). Each field is one access, at an odd address too: the
model's choice (log 54). -/
def State.countTable (s : State) (d : BitVec 4) (al cl : Addr) (addr count : Half) : State :=
  let t := (s.writeHalf cl (count - 1#16)).writeHalf al (addr + 2#16)
  let u := if count = 1#16 then t.send (.zeroCount d) else t
  u.writeHalf statusLoc 0#16

/-- The update after a halfword with a count in two's complement form: the table entry stays, the running address and
count move on inside the channel, which is tied up; ZERO COUNT and the clearing of the status word come with the last
halfword (R527, D31; log 25). The channel holds one burst: one in the other direction takes the place of that in progress,
the model's choice (log 47). That the running address goes from X'FFFE' to 0 is the model's choice too (log 59). -/
def State.countBurst (s : State) (d : BitVec 4) (input : Bool) (addr count : Half) : State :=
  let t := { s with chanBusy := true,
                    burst := some { device := d, input := input, addr := addr + 2#16, count := count + 1#16 } }
  if count + 1#16 = 0#16 then (t.send (.zeroCount d)).writeHalf statusLoc 0#16 else t

/-- The I/O interruption request of a zero count (R528). Where the channel holds a request already, the transfer changes
nothing, and the device presents it again (D12; log 24). -/
def State.zeroCountRequest (s : State) (d : BitVec 4) : State :=
  if s.pendIo.isNone && !s.pendKey then { s.draw with pendIo := some (zeroCountCode d s.free) } else s

/-- The transfer of a halfword with a nonzero count, the entry at `e` available (R526 to R530): the status word holds the
data address meanwhile. A parity error comes after the tests of the address and, like the errors of R530's pseudocode, which
does not cover it, moves nothing and leaves the table entry: the model's choice (log 52). -/
def State.transferHalf (s : State) (d : BitVec 4) (e : Addr) (input : Bool) (addr count : Half) (p : Payload) : Result :=
  let a : Addr := addr.setWidth 20
  let t := s.writeHalf statusLoc addr
  if !s.availableN a 2 then .next (t.bufferedError ProgEx.addressing.code)
  else if a.getLsbD 0 then .refused .bufferedOddAddress
  else if input && s.cpuProtected a then .next (t.bufferedError ProgEx.protection.code)
  else if p.fails then .next (t.draw.bufferedError (t.free.setWidth 16))
  else
    let m := t.moveHalf d input a p.data
    .next (
      if count.msb then m.countBurst d input addr count
      else m.countTable d (s.entryAddrLoc e input) (s.entryCountLoc e input) addr count)

/-- One buffered transfer of a halfword (R526 to R530). The channel reads the channel address word and tests all eight bytes
of the entry first. That it does so before every halfword of a burst too, although the running values are in the channel, is
the model's choice (log 55), and so is the addressing interruption where the eight bytes are available in part only, the fields
of the requested direction among them (log 56). -/
def State.buffered (s : State) (d : BitVec 4) (input : Bool) (p : Payload) : Result :=
  let caw := s.readWord cawLoc
  let e := entryLoc caw.1 d
  let t := caw.2
  if !s.availableN e 8 then
    let v : Half := t.free.setWidth 16
    .next ((t.draw.writeHalf statusLoc (if v = 0#16 then 1#16 else v)).bufferedError ProgEx.addressing.code)
  else
    let f := t.bufferedFields d e input
    if f.2.1 = 0#16 then .next (f.2.2.zeroCountRequest d)
    else f.2.2.transferHalf d e input f.1 f.2.1 p

/-- The channel can carry a device's transfer: it is free, or the request comes from the device that holds it (R520).
Neither the system mask nor a pending I/O interruption request keeps a transfer back (R291, R521). That a device which has tied
up the channel again after a RESET INTERFACE under a pending key is kept back until the key interruption is the model's choice
(log 58). -/
def State.canTransfer (s : State) (p : Payload) : Bool := !s.chanBusy || (p.holder && !s.pendKey)

/-- The channel can present a request for an interruption or of the TSE: it can carry it, and holds no other (R515, D12;
log 24). -/
def State.canPresent (s : State) (p : Payload) : Bool := s.canTransfer p && !s.pendKey && s.pendIo.isNone

/-- A request for an I/O interruption with the code `w` (R500): pending from then on, if the channel can present it. -/
def State.presentIo (s : State) (w : Half) (p : Payload) : State :=
  if s.canPresent p then { s with pendIo := some w } else s

/-- A device's request while the machine is operating (R501): a DMA error word and a word with bit 2 one ask for an I/O
interruption (R500, R518), a word with bit 2 zero for a buffered transfer (R521). -/
def State.deviceRequest (s : State) (w : Half) (p : Payload) : Result :=
  if !s.canTransfer p then .next s
  else if w = 0x1000#16 ∨ w = 0x0800#16 then .next (s.presentIo w p)
  else if slice w 12 4 = 0#4 then .refused .deviceRequestUndefined
  else if !codeBit w 2 then s.buffered (slice w 8 4) (codeBit w 1) p
  else if codeBit w 1 then .refused .deviceRequestUndefined
  else .next (s.presentIo w p)

/-! ## The functions of the test support equipment (R552 to R558) -/

/-- PROGRAM LOAD (R554): store the tape's data words under the checks of R71, then make the PSW at location 0 current. An
error hangs the machine; a tape that ends before its stop item leaves it in soft stop, and the word after that at X'FFFE'
goes to location 0, the 16-bit address wrapping: the model's choices (log 27). -/
def loadTape : List TapeItem → Option Half → State → Result
  | [], _, s => .next s
  | .stop :: _, _, s => .next (s.loadPsw 0)
  | .error :: _, _, s => .next s.hang
  | .dma x :: r, a, s => loadTape r a (s.dmaAccess x)
  | .address w :: r, _, s => loadTape r (some w) s
  | .data _ :: _, none, _ => .refused .tapeDataBeforeAddress
  | .data w :: r, some a, s =>
    match s.storeError (a.setWidth 20) 2 2 with
    | none => loadTape r (some (a + 2#16)) (s.setHalf (a.setWidth 20) w)
    | some _ => .next s.hang

/-- Storage from the byte numbered `n` on, what lies before it zero. -/
def clearBelow (n : Nat) (m : List Host.Cell) : List Host.Cell := m.filter fun c => n ≤ c.1

/-- MEMORY CLEAR (R556): all storage and then all keys zero, no key consulted. A miscompare or parity error at the halfword
numbered `h` hangs the machine: the storage before it is zero, it holds `w`, and the rest and the keys are as before
(log 28). -/
def State.memoryClear (s : State) (fails : Option (BitVec 19 × Half)) : State :=
  match fails with
  | none => { s with mem := [], keys := [] }
  | some (h, w) =>
    if s.availableN (halfAddr h) 2 then
      ({ s with mem := clearBelow (halfAddr h).toNat s.mem }.setHalf (halfAddr h) w).hang
    else { s with mem := [], keys := [] }

/-- The switch address is one READMAIN and WRITEMAIN define: even and available (R553). -/
def State.switchAddrOk (s : State) (a : Addr) : Bool := !a.getLsbD 0 && s.availableN a 2

/-- A TSE function while in soft stop (R552): the functions that soft stop does not allow have no effect (D32). READMAIN and
WRITEMAIN take the address and the 16 data switches that come with the request, whatever the panel registers hold: which 16
of the 32 panel data bits they are the spec does not say (R553; log 44). -/
def State.tseInSoftStop (s : State) (w : Half) (p : Payload) : Result :=
  match (slice w 12 4).toNat with
  | 1 | 2 | 3 | 7 | 11 => .next s
  | 4 => if s.switchAddrOk p.addr then .next (s.send (.displayed (s.half p.addr))) else .refused .tseAddressUndefined
  | 5 =>
    if s.switchAddrOk p.addr then .next ((s.setHalf p.addr p.data).send (.displayed p.data))
    else .refused .tseAddressUndefined
  | 6 => .next { s with mode := .operating }
  | 8 => loadTape p.tape none s
  | 9 => .next (s.loadPsw 0)
  | 10 => .next (s.memoryClear p.clearFails)
  | _ => .refused .tseFunctionUndefined

/-- A TSE function while operating (R552): STOP needs system mask bit 0, the interrupt key holds the channel until it is
taken (R508, D29), INTIO, whose word is of the form 8xxB, becomes an I/O interruption request (R552, R558), and the
functions of soft stop have no effect (D32). -/
def State.tseInOperation (s : State) (w : Half) : Result :=
  match (slice w 12 4).toNat with
  | 1 => .next (if s.maskIo then { s with mode := .softStop } else s)
  | 7 => .next { s with pendKey := true, chanBusy := true }
  | 11 => if slice w 0 4 = 8#4 then .next { s with pendIo := some w } else .refused .deviceRequestUndefined
  | 2 | 3 | 4 | 5 | 6 | 8 | 9 | 10 => .next s
  | _ => .refused .tseFunctionUndefined

/-- A channel code word is presented (R501, R519): in soft stop only the TSE is heard (R551). -/
def State.request (s : State) (w : Half) (p : Payload) : Result :=
  match s.mode with
  | .hung => .next s
  | .softStop => if codeBit w 0 then s.tseInSoftStop w p else .next s
  | .operating =>
    if codeBit w 0 then (if s.canPresent p then s.tseInOperation w else .next s)
    else s.deviceRequest w p

/-! ## The other agents -/

/-- A device releases the channel: a burst still in progress is then complete and its status word is cleared (R529;
log 25). In soft stop storage keeps its values (R551), and so does the status word; that the burst ends there too, and that
the word keeps the burst's address after START, is the model's choice (log 48). While the interrupt key is pending the channel
stays held (D29) and a release has no effect, not that of a device either which has tied up the channel again after a RESET
INTERFACE: the model's choice (log 58). -/
def State.release (s : State) : State :=
  if s.pendKey then s
  else
    let t := { s with chanBusy := false, burst := none }
    match s.mode, s.burst with
    | .operating, some b => if b.count = 0#16 then t else t.setHalf statusLoc 0#16
    | _, _ => t

/-- What a parity error has done to the instruction that was executing (R510): the registers, the bytes of its storage
operands, fetched ones in protected blocks too, and the condition code hold any value. -/
def State.damaged (s : State) (d : Damage) : State :=
  let t := d.gr.foldl (fun t x => t.setReg x.1 x.2) s
  let u := d.fpr.foldl (fun t x => { t with fpr := t.fpr.set x.1.toNat x.2 x.1.isLt }) t
  let v := d.bytes.foldl (fun t x => if t.available x.1 then t.setByte x.1 x.2 else t) u
  v.setCc d.cc

/-- A storage parity error (R510): a machine-check interruption with any code and length code, or a hard stop when PSW
bit 13 is zero; in soft stop it hangs the machine (R551). -/
def State.parityError (s : State) (d : Damage) : State :=
  match s.mode with
  | .hung => s
  | .softStop => s.hang
  | .operating =>
    let t := s.damaged d
    if s.psw.m then t.draw.draw.interrupt .machineCheck (t.free.setWidth 16) (t.draw.free.setWidth 2) else t.hang

/-- The system reset button (R550): soft stop, the interval timer at its maximum, no request pending (D17), and every
value the manual does not state as the event brings it (D36). The panel and its devices are the operator's. -/
def State.systemReset (s : State) (x : ResetImage) : State :=
  { s with
    gr := x.gr, fpr := x.fpr, psw := x.psw, inExecute := false
    mem := sparseOf s.params.memSize x.mem
    keys := sparseOf (s.params.memSize / 1024) x.keys
    rtc := x.rtc, intimer := 0xFFFF#16
    pendTimer := false, pendKey := false, pendIo := none
    chanBusy := x.chanBusy, burst := none, mode := .softStop }

/-- A hung machine does nothing further until it is reset (R511). -/
def State.unlessHung (s : State) (t : State) : State := if s.mode = .hung then s else t

end Sys2Proof.Machine
end

