-- ==== Sys2Proof/Decode.lean ====
section
/-! DEFINITION.
Decoding and encoding (R100 to R107, R120, R125 of spec/30_encoding.md). No instruction is selected by anything but its
operation code, its first byte. The decoder is a table of operation codes; the encoder is written from the same formats.
-/
namespace Sys2Proof

/-- The left four bits of a byte. -/
def hi4 (b : Byte) : BitVec 4 := b.extractLsb' 4 4
/-- The right four bits of a byte. -/
def lo4 (b : Byte) : BitVec 4 := b.extractLsb' 0 4
/-- A displacement: the right half of one byte and the whole next byte (R102). -/
def dispOf (a b : Byte) : Disp := lo4 a ++ b
/-- A 16-bit immediate field (R106). -/
def halfOf (a b : Byte) : Half := a ++ b
/-- A byte from two four-bit fields. -/
def byteOf (a b : BitVec 4) : Byte := a ++ b
/-- The byte that holds a base field and the left four bits of the displacement. -/
def baseByte (b : Reg) (d : Disp) : Byte := b ++ d.extractLsb' 8 4
/-- The byte that holds the right eight bits of the displacement. -/
def dispByte (d : Disp) : Byte := d.extractLsb' 0 8

/-- Which option a row of the operation-code table needs. -/
inductive Need where
  | basic | short | double | float
  deriving DecidableEq, Repr

/-- Whether an installation has what a row needs (R125). -/
def Need.met (o : Options) : Need → Bool
  | .basic => true
  | .short => o.short
  | .double => o.double
  | .float => o.float

/-- How the fields of a row are laid out, with the constructor they fill. -/
inductive Build where
  /-- RR with the R2 field ignored (SPM, R297) -/
  | r (mk : Reg → Instr)
  /-- RR with the R1 field ignored (BUR, R335) -/
  | r2 (mk : Reg → Instr)
  /-- RR with one eight-bit field (SVC, R300) -/
  | i8 (mk : Byte → Instr)
  /-- RR (R101) -/
  | rr (mk : Reg → Reg → Instr)
  /-- RX (R102), and RS with its R3 field in the place of X2 (R103) -/
  | rx (mk : Reg → Reg → Reg → Disp → Instr)
  /-- RX with the R1 field ignored (BU, R334) -/
  | rx0 (mk : Reg → Reg → Disp → Instr)
  /-- RS with the R3 field ignored (the shifts, R103) -/
  | rsh (mk : Reg → Reg → Disp → Instr)
  /-- SI (R104) -/
  | si (mk : Byte → Reg → Disp → Instr)
  /-- SI with the I2 field ignored (LPSW, SSM, TS) -/
  | si0 (mk : Reg → Disp → Instr)
  /-- RI (R106) -/
  | ri (mk : Reg → Half → Instr)
  /-- SS with one length field (R105) -/
  | ss (mk : Byte → Reg → Disp → Reg → Disp → Instr)
  /-- SS with two length fields (R105) -/
  | ss2 (mk : BitVec 4 → BitVec 4 → Reg → Disp → Reg → Disp → Instr)

/-- Fill a row's fields from the bytes of an instruction of exactly the row's length. -/
def Build.fill : Build → List Byte → Option Instr
  | .r mk, [_, a] => some (mk (hi4 a))
  | .r2 mk, [_, a] => some (mk (lo4 a))
  | .i8 mk, [_, a] => some (mk a)
  | .rr mk, [_, a] => some (mk (hi4 a) (lo4 a))
  | .rx mk, [_, a, b, c] => some (mk (hi4 a) (lo4 a) (hi4 b) (dispOf b c))
  | .rx0 mk, [_, a, b, c] => some (mk (lo4 a) (hi4 b) (dispOf b c))
  | .rsh mk, [_, a, b, c] => some (mk (hi4 a) (hi4 b) (dispOf b c))
  | .si mk, [_, a, b, c] => some (mk a (hi4 b) (dispOf b c))
  | .si0 mk, [_, _, b, c] => some (mk (hi4 b) (dispOf b c))
  | .ri mk, [_, a, b, c] => some (mk (hi4 a) (halfOf b c))
  | .ss mk, [_, a, b, c, d, e] => some (mk a (hi4 b) (dispOf b c) (hi4 d) (dispOf d e))
  | .ss2 mk, [_, a, b, c, d, e] => some (mk (hi4 a) (lo4 a) (hi4 b) (dispOf b c) (hi4 d) (dispOf d e))
  | _, _ => none

/-- A row of the operation-code table (R120). -/
structure OpRow where
  op : Byte
  need : Need
  build : Build

/-- R120, row 0x. -/
def opRows0 : List OpRow :=
  [ ⟨0x04#8, .basic, .r .spm⟩,
    ⟨0x05#8, .basic, .rr .balr⟩,
    ⟨0x06#8, .basic, .rr .bctr⟩,
    ⟨0x07#8, .basic, .rr .bcr⟩,
    ⟨0x08#8, .basic, .rr .ssk⟩,
    ⟨0x0A#8, .basic, .i8 .svc⟩,
    ⟨0x0B#8, .short, .rr .lfsr⟩ ]

/-- R120, row 1x. -/
def opRows1 : List OpRow :=
  [ ⟨0x10#8, .basic, .rr .lpr⟩,
    ⟨0x11#8, .basic, .rr .lnr⟩,
    ⟨0x12#8, .basic, .rr .ltr⟩,
    ⟨0x13#8, .basic, .rr .lcr⟩,
    ⟨0x14#8, .basic, .rr .nr⟩,
    ⟨0x15#8, .basic, .rr .clr⟩,
    ⟨0x16#8, .basic, .rr .or⟩,
    ⟨0x17#8, .basic, .rr .xr⟩,
    ⟨0x18#8, .basic, .rr .lr⟩,
    ⟨0x19#8, .basic, .rr .cr⟩,
    ⟨0x1A#8, .basic, .rr .ar⟩,
    ⟨0x1B#8, .basic, .rr .sr⟩,
    ⟨0x1C#8, .basic, .rr .mr⟩,
    ⟨0x1D#8, .basic, .rr .dr⟩,
    ⟨0x1E#8, .basic, .rr .alr⟩,
    ⟨0x1F#8, .basic, .rr .slr⟩ ]

/-- R120, row 2x. -/
def opRows2 : List OpRow :=
  [ ⟨0x23#8, .double, .rr .lcdr⟩,
    ⟨0x28#8, .double, .rr .ldr⟩,
    ⟨0x29#8, .double, .rr .cdr⟩,
    ⟨0x2A#8, .double, .rr .adr⟩,
    ⟨0x2B#8, .double, .rr .sdr⟩ ]

/-- R120, row 3x. -/
def opRows3 : List OpRow :=
  [ ⟨0x30#8, .float, .rr .lper⟩,
    ⟨0x31#8, .float, .rr .lner⟩,
    ⟨0x32#8, .float, .rr .lter⟩,
    ⟨0x33#8, .float, .rr .lcer⟩,
    ⟨0x34#8, .float, .rr .her⟩,
    ⟨0x38#8, .float, .rr .ler⟩,
    ⟨0x39#8, .float, .rr .cer⟩,
    ⟨0x3A#8, .float, .rr .aer⟩,
    ⟨0x3B#8, .float, .rr .ser⟩,
    ⟨0x3C#8, .float, .rr .mer⟩,
    ⟨0x3D#8, .float, .rr .der⟩,
    ⟨0x3E#8, .float, .rr .aur⟩,
    ⟨0x3F#8, .float, .rr .sur⟩ ]

/-- R120, row 4x. -/
def opRows4 : List OpRow :=
  [ ⟨0x40#8, .basic, .rx .sth⟩,
    ⟨0x41#8, .basic, .rx .la⟩,
    ⟨0x42#8, .basic, .rx .stc⟩,
    ⟨0x43#8, .basic, .rx .ic⟩,
    ⟨0x44#8, .basic, .rx .ex⟩,
    ⟨0x45#8, .basic, .rx .bal⟩,
    ⟨0x46#8, .basic, .rx .bct⟩,
    ⟨0x47#8, .basic, .rx .bc⟩,
    ⟨0x48#8, .basic, .rx .lh⟩,
    ⟨0x49#8, .basic, .rx .ch⟩,
    ⟨0x4A#8, .basic, .rx .ah⟩,
    ⟨0x4B#8, .basic, .rx .sh⟩,
    ⟨0x4C#8, .basic, .rx .mh⟩,
    ⟨0x4D#8, .short, .rx .ds⟩,
    ⟨0x4E#8, .basic, .rx .cvd⟩,
    ⟨0x4F#8, .basic, .rx .cvb⟩ ]

/-- R120, row 5x. -/
def opRows5 : List OpRow :=
  [ ⟨0x50#8, .basic, .rx .st⟩,
    ⟨0x51#8, .short, .rx .las⟩,
    ⟨0x52#8, .short, .rx .lts⟩,
    ⟨0x53#8, .short, .rx .as⟩,
    ⟨0x54#8, .basic, .rx .n⟩,
    ⟨0x55#8, .basic, .rx .cl⟩,
    ⟨0x56#8, .basic, .rx .o⟩,
    ⟨0x57#8, .basic, .rx .x⟩,
    ⟨0x58#8, .basic, .rx .l⟩,
    ⟨0x59#8, .basic, .rx .c⟩,
    ⟨0x5A#8, .basic, .rx .a⟩,
    ⟨0x5B#8, .basic, .rx .s⟩,
    ⟨0x5C#8, .basic, .rx .m⟩,
    ⟨0x5D#8, .basic, .rx .d⟩,
    ⟨0x5E#8, .basic, .rx .al⟩,
    ⟨0x5F#8, .basic, .rx .sl⟩ ]

/-- R120, row 6x. -/
def opRows6 : List OpRow :=
  [ ⟨0x60#8, .double, .rx .std⟩,
    ⟨0x61#8, .short, .rx .cs⟩,
    ⟨0x62#8, .short, .rx .lt⟩,
    ⟨0x63#8, .short, .rx .xs⟩,
    ⟨0x64#8, .short, .rx .ns⟩,
    ⟨0x65#8, .short, .rx .cls⟩,
    ⟨0x66#8, .short, .rx .os⟩,
    ⟨0x68#8, .double, .rx .ld⟩,
    ⟨0x69#8, .double, .rx .cd⟩,
    ⟨0x6A#8, .double, .rx .ad⟩,
    ⟨0x6B#8, .double, .rx .sd⟩ ]

/-- R120, row 7x. -/
def opRows7 : List OpRow :=
  [ ⟨0x70#8, .float, .rx .ste⟩,
    ⟨0x71#8, .short, .rx .ms⟩,
    ⟨0x72#8, .short, .rx .ss⟩,
    ⟨0x73#8, .short, .rx0 .bu⟩,
    ⟨0x74#8, .short, .rx .ls⟩,
    ⟨0x75#8, .short, .rx .tb⟩,
    ⟨0x78#8, .float, .rx .le⟩,
    ⟨0x79#8, .float, .rx .ce⟩,
    ⟨0x7A#8, .float, .rx .ae⟩,
    ⟨0x7B#8, .float, .rx .se⟩,
    ⟨0x7C#8, .float, .rx .me⟩,
    ⟨0x7D#8, .float, .rx .de⟩,
    ⟨0x7E#8, .float, .rx .au⟩,
    ⟨0x7F#8, .float, .rx .su⟩ ]

/-- R120, row 8x. -/
def opRows8 : List OpRow :=
  [ ⟨0x80#8, .basic, .si0 .ssm⟩,
    ⟨0x82#8, .basic, .si0 .lpsw⟩,
    ⟨0x83#8, .basic, .si .diagnose⟩,
    ⟨0x86#8, .basic, .rx .bxh⟩,
    ⟨0x87#8, .basic, .rx .bxle⟩,
    ⟨0x88#8, .basic, .rsh .srl⟩,
    ⟨0x89#8, .basic, .rsh .sll⟩,
    ⟨0x8A#8, .basic, .rsh .sra⟩,
    ⟨0x8B#8, .basic, .rsh .sla⟩,
    ⟨0x8C#8, .basic, .rsh .srdl⟩,
    ⟨0x8D#8, .basic, .rsh .sldl⟩,
    ⟨0x8E#8, .basic, .rsh .srda⟩,
    ⟨0x8F#8, .basic, .rsh .slda⟩ ]

/-- R120, row 9x. -/
def opRows9 : List OpRow :=
  [ ⟨0x90#8, .basic, .rx .stm⟩,
    ⟨0x91#8, .basic, .si .tm⟩,
    ⟨0x92#8, .basic, .si .mvi⟩,
    ⟨0x93#8, .basic, .si0 .ts⟩,
    ⟨0x94#8, .basic, .si .ni⟩,
    ⟨0x95#8, .basic, .si .cli⟩,
    ⟨0x96#8, .basic, .si .oi⟩,
    ⟨0x97#8, .basic, .si .xi⟩,
    ⟨0x98#8, .basic, .rx .lm⟩ ]

/-- R120, row Ax. -/
def opRowsA : List OpRow :=
  [ ⟨0xA0#8, .short, .rsh .srls⟩,
    ⟨0xA1#8, .short, .rsh .slls⟩,
    ⟨0xA2#8, .short, .rsh .sras⟩,
    ⟨0xA3#8, .short, .rsh .slas⟩,
    ⟨0xA4#8, .basic, .rx .tmrs⟩,
    ⟨0xA5#8, .basic, .rx .sio⟩,
    ⟨0xA6#8, .short, .ri .osi⟩,
    ⟨0xA7#8, .short, .ri .xsi⟩,
    ⟨0xA8#8, .short, .ri .lsi⟩,
    ⟨0xA9#8, .short, .ri .csi⟩,
    ⟨0xAA#8, .short, .ri .asi⟩,
    ⟨0xAB#8, .short, .ri .ssi⟩,
    ⟨0xAE#8, .short, .ri .tbi⟩ ]

/-- R120, row Bx. -/
def opRowsB : List OpRow :=
  [ ⟨0xB0#8, .short, .ri .dsi⟩,
    ⟨0xB3#8, .short, .ri .msi⟩,
    ⟨0xB4#8, .short, .ri .nsi⟩,
    ⟨0xB5#8, .short, .ri .clsi⟩,
    ⟨0xB8#8, .short, .ri .lhi⟩,
    ⟨0xB9#8, .short, .ri .chi⟩,
    ⟨0xBA#8, .short, .ri .ahi⟩,
    ⟨0xBB#8, .short, .ri .shi⟩,
    ⟨0xBC#8, .short, .ri .mhi⟩ ]

/-- R120, row Cx. -/
def opRowsC : List OpRow :=
  [ ⟨0xC0#8, .short, .rr .lpsr⟩,
    ⟨0xC1#8, .short, .rr .lnsr⟩,
    ⟨0xC2#8, .short, .rr .ltsr⟩,
    ⟨0xC3#8, .short, .rr .lcsr⟩,
    ⟨0xC4#8, .short, .rr .nsr⟩,
    ⟨0xC5#8, .short, .rr .clsr⟩,
    ⟨0xC6#8, .short, .rr .osr⟩,
    ⟨0xC7#8, .short, .rr .xsr⟩,
    ⟨0xC8#8, .short, .rr .lsr⟩,
    ⟨0xC9#8, .short, .rr .csr⟩,
    ⟨0xCA#8, .short, .rr .asr⟩,
    ⟨0xCB#8, .short, .rr .ssr⟩,
    ⟨0xCC#8, .short, .rr .msr⟩,
    ⟨0xCD#8, .short, .rr .dsr⟩,
    ⟨0xCE#8, .short, .r2 .bur⟩,
    ⟨0xCF#8, .short, .rr .nrm⟩ ]

/-- R120, row Dx. -/
def opRowsD : List OpRow :=
  [ ⟨0xD0#8, .short, .rr .lhr⟩,
    ⟨0xD1#8, .basic, .ss .mvn⟩,
    ⟨0xD2#8, .basic, .ss .mvc⟩,
    ⟨0xD3#8, .basic, .ss .mvz⟩,
    ⟨0xD4#8, .basic, .ss .nc⟩,
    ⟨0xD5#8, .basic, .ss .clc⟩,
    ⟨0xD6#8, .basic, .ss .oc⟩,
    ⟨0xD7#8, .basic, .ss .xc⟩,
    ⟨0xDC#8, .basic, .ss .tr⟩,
    ⟨0xDD#8, .basic, .ss .trt⟩ ]

/-- R120, row Fx. -/
def opRowsF : List OpRow :=
  [ ⟨0xF1#8, .basic, .ss2 .mvo⟩,
    ⟨0xF2#8, .basic, .ss2 .pack⟩,
    ⟨0xF3#8, .basic, .ss2 .unpk⟩ ]

/-- The 171 assigned operation codes (R120). -/
def opRows : List OpRow :=
  opRows0 ++ opRows1 ++ opRows2 ++ opRows3 ++ opRows4 ++ opRows5 ++ opRows6 ++ opRows7 ++ opRows8 ++ opRows9 ++ opRowsA ++ opRowsB ++ opRowsC ++ opRowsD ++ opRowsF

/-- The row of an operation code, if it is assigned. -/
def findRow (op : Byte) : List OpRow → Option OpRow
  | [] => none
  | r :: rs => if r.op = op then some r else findRow op rs

/-- The length of an instruction in halfwords, a function of its whole operation code (R100, R107). -/
def instrLength (hasShort : Bool) (op : Byte) : Nat :=
  if hasShort && (hi4 op == 0xC#4 || op == 0xD0#8) then 1
  else if op.extractLsb' 6 2 == 0#2 then 1
  else if op.extractLsb' 6 2 == 3#2 then 3
  else 2

/-- Why bytes are no instruction. -/
inductive DecodeError where
  /-- the bytes end before the instruction does -/
  | truncated
  /-- the operation code is not assigned (R125) -/
  | unassigned (op : Byte)
  /-- the operation code belongs to an option that is not installed (R125) -/
  | optionAbsent (op : Byte)
  deriving DecidableEq, Repr

/-- What an operation code selects: its row, or why there is none (R125). -/
def opSelect (o : Options) (op : Byte) : Except DecodeError OpRow :=
  match findRow op opRows with
  | none => .error (.unassigned op)
  | some row => if row.need.met o then .ok row else .error (.optionAbsent op)

/-- Read one instruction from the front of a list of bytes, and give the bytes after it. -/
def decode (o : Options) (bytes : List Byte) : Except DecodeError (Instr × List Byte) :=
  match bytes with
  | [] => .error .truncated
  | op :: _ =>
    match opSelect o op with
    | .error e => .error e
    | .ok row =>
      let n := 2 * instrLength o.short op
      match row.build.fill (bytes.take n) with
      | some i => .ok (i, bytes.drop n)
      | none => .error .truncated

/-- The bytes of an RR instruction (R101). -/
def encRR (op : Byte) (r1 r2 : BitVec 4) : List Byte := [op, byteOf r1 r2]
/-- The bytes of an RX or RS instruction (R102, R103). -/
def encRX (op : Byte) (r1 x2 : BitVec 4) (b2 : Reg) (d2 : Disp) : List Byte :=
  [op, byteOf r1 x2, baseByte b2 d2, dispByte d2]
/-- The bytes of an SI instruction (R104). -/
def encSI (op i2 : Byte) (b1 : Reg) (d1 : Disp) : List Byte := [op, i2, baseByte b1 d1, dispByte d1]
/-- The bytes of an RI instruction (R106). -/
def encRI (op : Byte) (r1 : Reg) (i2 : Half) : List Byte :=
  [op, byteOf r1 0, i2.extractLsb' 8 8, i2.extractLsb' 0 8]
/-- The bytes of an SS instruction (R105). -/
def encSS (op l : Byte) (b1 : Reg) (d1 : Disp) (b2 : Reg) (d2 : Disp) : List Byte :=
  [op, l, baseByte b1 d1, dispByte d1, baseByte b2 d2, dispByte d2]

/-- The bytes of an instruction, with zeros in the fields it ignores. -/
def encode : Instr → List Byte
  | .spm r1 => encRR 0x04#8 r1 0
  | .balr r1 r2 => encRR 0x05#8 r1 r2
  | .bctr r1 r2 => encRR 0x06#8 r1 r2
  | .bcr m1 r2 => encRR 0x07#8 m1 r2
  | .ssk r1 r2 => encRR 0x08#8 r1 r2
  | .svc code => [0x0A#8, code]
  | .lfsr r1 r2 => encRR 0x0B#8 r1 r2
  | .lpr r1 r2 => encRR 0x10#8 r1 r2
  | .lnr r1 r2 => encRR 0x11#8 r1 r2
  | .ltr r1 r2 => encRR 0x12#8 r1 r2
  | .lcr r1 r2 => encRR 0x13#8 r1 r2
  | .nr r1 r2 => encRR 0x14#8 r1 r2
  | .clr r1 r2 => encRR 0x15#8 r1 r2
  | .or r1 r2 => encRR 0x16#8 r1 r2
  | .xr r1 r2 => encRR 0x17#8 r1 r2
  | .lr r1 r2 => encRR 0x18#8 r1 r2
  | .cr r1 r2 => encRR 0x19#8 r1 r2
  | .ar r1 r2 => encRR 0x1A#8 r1 r2
  | .sr r1 r2 => encRR 0x1B#8 r1 r2
  | .mr r1 r2 => encRR 0x1C#8 r1 r2
  | .dr r1 r2 => encRR 0x1D#8 r1 r2
  | .alr r1 r2 => encRR 0x1E#8 r1 r2
  | .slr r1 r2 => encRR 0x1F#8 r1 r2
  | .lcdr r1 r2 => encRR 0x23#8 r1 r2
  | .ldr r1 r2 => encRR 0x28#8 r1 r2
  | .cdr r1 r2 => encRR 0x29#8 r1 r2
  | .adr r1 r2 => encRR 0x2A#8 r1 r2
  | .sdr r1 r2 => encRR 0x2B#8 r1 r2
  | .lper r1 r2 => encRR 0x30#8 r1 r2
  | .lner r1 r2 => encRR 0x31#8 r1 r2
  | .lter r1 r2 => encRR 0x32#8 r1 r2
  | .lcer r1 r2 => encRR 0x33#8 r1 r2
  | .her r1 r2 => encRR 0x34#8 r1 r2
  | .ler r1 r2 => encRR 0x38#8 r1 r2
  | .cer r1 r2 => encRR 0x39#8 r1 r2
  | .aer r1 r2 => encRR 0x3A#8 r1 r2
  | .ser r1 r2 => encRR 0x3B#8 r1 r2
  | .mer r1 r2 => encRR 0x3C#8 r1 r2
  | .der r1 r2 => encRR 0x3D#8 r1 r2
  | .aur r1 r2 => encRR 0x3E#8 r1 r2
  | .sur r1 r2 => encRR 0x3F#8 r1 r2
  | .sth r1 x2 b2 d2 => encRX 0x40#8 r1 x2 b2 d2
  | .la r1 x2 b2 d2 => encRX 0x41#8 r1 x2 b2 d2
  | .stc r1 x2 b2 d2 => encRX 0x42#8 r1 x2 b2 d2
  | .ic r1 x2 b2 d2 => encRX 0x43#8 r1 x2 b2 d2
  | .ex r1 x2 b2 d2 => encRX 0x44#8 r1 x2 b2 d2
  | .bal r1 x2 b2 d2 => encRX 0x45#8 r1 x2 b2 d2
  | .bct r1 x2 b2 d2 => encRX 0x46#8 r1 x2 b2 d2
  | .bc m1 x2 b2 d2 => encRX 0x47#8 m1 x2 b2 d2
  | .lh r1 x2 b2 d2 => encRX 0x48#8 r1 x2 b2 d2
  | .ch r1 x2 b2 d2 => encRX 0x49#8 r1 x2 b2 d2
  | .ah r1 x2 b2 d2 => encRX 0x4A#8 r1 x2 b2 d2
  | .sh r1 x2 b2 d2 => encRX 0x4B#8 r1 x2 b2 d2
  | .mh r1 x2 b2 d2 => encRX 0x4C#8 r1 x2 b2 d2
  | .ds r1 x2 b2 d2 => encRX 0x4D#8 r1 x2 b2 d2
  | .cvd r1 x2 b2 d2 => encRX 0x4E#8 r1 x2 b2 d2
  | .cvb r1 x2 b2 d2 => encRX 0x4F#8 r1 x2 b2 d2
  | .st r1 x2 b2 d2 => encRX 0x50#8 r1 x2 b2 d2
  | .las r1 x2 b2 d2 => encRX 0x51#8 r1 x2 b2 d2
  | .lts r1 x2 b2 d2 => encRX 0x52#8 r1 x2 b2 d2
  | .as r1 x2 b2 d2 => encRX 0x53#8 r1 x2 b2 d2
  | .n r1 x2 b2 d2 => encRX 0x54#8 r1 x2 b2 d2
  | .cl r1 x2 b2 d2 => encRX 0x55#8 r1 x2 b2 d2
  | .o r1 x2 b2 d2 => encRX 0x56#8 r1 x2 b2 d2
  | .x r1 x2 b2 d2 => encRX 0x57#8 r1 x2 b2 d2
  | .l r1 x2 b2 d2 => encRX 0x58#8 r1 x2 b2 d2
  | .c r1 x2 b2 d2 => encRX 0x59#8 r1 x2 b2 d2
  | .a r1 x2 b2 d2 => encRX 0x5A#8 r1 x2 b2 d2
  | .s r1 x2 b2 d2 => encRX 0x5B#8 r1 x2 b2 d2
  | .m r1 x2 b2 d2 => encRX 0x5C#8 r1 x2 b2 d2
  | .d r1 x2 b2 d2 => encRX 0x5D#8 r1 x2 b2 d2
  | .al r1 x2 b2 d2 => encRX 0x5E#8 r1 x2 b2 d2
  | .sl r1 x2 b2 d2 => encRX 0x5F#8 r1 x2 b2 d2
  | .std r1 x2 b2 d2 => encRX 0x60#8 r1 x2 b2 d2
  | .cs r1 x2 b2 d2 => encRX 0x61#8 r1 x2 b2 d2
  | .lt r1 x2 b2 d2 => encRX 0x62#8 r1 x2 b2 d2
  | .xs r1 x2 b2 d2 => encRX 0x63#8 r1 x2 b2 d2
  | .ns r1 x2 b2 d2 => encRX 0x64#8 r1 x2 b2 d2
  | .cls r1 x2 b2 d2 => encRX 0x65#8 r1 x2 b2 d2
  | .os r1 x2 b2 d2 => encRX 0x66#8 r1 x2 b2 d2
  | .ld r1 x2 b2 d2 => encRX 0x68#8 r1 x2 b2 d2
  | .cd r1 x2 b2 d2 => encRX 0x69#8 r1 x2 b2 d2
  | .ad r1 x2 b2 d2 => encRX 0x6A#8 r1 x2 b2 d2
  | .sd r1 x2 b2 d2 => encRX 0x6B#8 r1 x2 b2 d2
  | .ste r1 x2 b2 d2 => encRX 0x70#8 r1 x2 b2 d2
  | .ms r1 x2 b2 d2 => encRX 0x71#8 r1 x2 b2 d2
  | .ss r1 x2 b2 d2 => encRX 0x72#8 r1 x2 b2 d2
  | .bu x2 b2 d2 => encRX 0x73#8 0 x2 b2 d2
  | .ls r1 x2 b2 d2 => encRX 0x74#8 r1 x2 b2 d2
  | .tb r1 x2 b2 d2 => encRX 0x75#8 r1 x2 b2 d2
  | .le r1 x2 b2 d2 => encRX 0x78#8 r1 x2 b2 d2
  | .ce r1 x2 b2 d2 => encRX 0x79#8 r1 x2 b2 d2
  | .ae r1 x2 b2 d2 => encRX 0x7A#8 r1 x2 b2 d2
  | .se r1 x2 b2 d2 => encRX 0x7B#8 r1 x2 b2 d2
  | .me r1 x2 b2 d2 => encRX 0x7C#8 r1 x2 b2 d2
  | .de r1 x2 b2 d2 => encRX 0x7D#8 r1 x2 b2 d2
  | .au r1 x2 b2 d2 => encRX 0x7E#8 r1 x2 b2 d2
  | .su r1 x2 b2 d2 => encRX 0x7F#8 r1 x2 b2 d2
  | .ssm b1 d1 => encSI 0x80#8 0 b1 d1
  | .lpsw b1 d1 => encSI 0x82#8 0 b1 d1
  | .diagnose i2 b1 d1 => encSI 0x83#8 i2 b1 d1
  | .bxh r1 r3 b2 d2 => encRX 0x86#8 r1 r3 b2 d2
  | .bxle r1 r3 b2 d2 => encRX 0x87#8 r1 r3 b2 d2
  | .srl r1 b2 d2 => encRX 0x88#8 r1 0 b2 d2
  | .sll r1 b2 d2 => encRX 0x89#8 r1 0 b2 d2
  | .sra r1 b2 d2 => encRX 0x8A#8 r1 0 b2 d2
  | .sla r1 b2 d2 => encRX 0x8B#8 r1 0 b2 d2
  | .srdl r1 b2 d2 => encRX 0x8C#8 r1 0 b2 d2
  | .sldl r1 b2 d2 => encRX 0x8D#8 r1 0 b2 d2
  | .srda r1 b2 d2 => encRX 0x8E#8 r1 0 b2 d2
  | .slda r1 b2 d2 => encRX 0x8F#8 r1 0 b2 d2
  | .stm r1 r3 b2 d2 => encRX 0x90#8 r1 r3 b2 d2
  | .tm i2 b1 d1 => encSI 0x91#8 i2 b1 d1
  | .mvi i2 b1 d1 => encSI 0x92#8 i2 b1 d1
  | .ts b1 d1 => encSI 0x93#8 0 b1 d1
  | .ni i2 b1 d1 => encSI 0x94#8 i2 b1 d1
  | .cli i2 b1 d1 => encSI 0x95#8 i2 b1 d1
  | .oi i2 b1 d1 => encSI 0x96#8 i2 b1 d1
  | .xi i2 b1 d1 => encSI 0x97#8 i2 b1 d1
  | .lm r1 r3 b2 d2 => encRX 0x98#8 r1 r3 b2 d2
  | .srls r1 b2 d2 => encRX 0xA0#8 r1 0 b2 d2
  | .slls r1 b2 d2 => encRX 0xA1#8 r1 0 b2 d2
  | .sras r1 b2 d2 => encRX 0xA2#8 r1 0 b2 d2
  | .slas r1 b2 d2 => encRX 0xA3#8 r1 0 b2 d2
  | .tmrs fn r3 b2 d2 => encRX 0xA4#8 fn r3 b2 d2
  | .sio r1 r3 b2 d2 => encRX 0xA5#8 r1 r3 b2 d2
  | .osi r1 i2 => encRI 0xA6#8 r1 i2
  | .xsi r1 i2 => encRI 0xA7#8 r1 i2
  | .lsi r1 i2 => encRI 0xA8#8 r1 i2
  | .csi r1 i2 => encRI 0xA9#8 r1 i2
  | .asi r1 i2 => encRI 0xAA#8 r1 i2
  | .ssi r1 i2 => encRI 0xAB#8 r1 i2
  | .tbi r1 i2 => encRI 0xAE#8 r1 i2
  | .dsi r1 i2 => encRI 0xB0#8 r1 i2
  | .msi r1 i2 => encRI 0xB3#8 r1 i2
  | .nsi r1 i2 => encRI 0xB4#8 r1 i2
  | .clsi r1 i2 => encRI 0xB5#8 r1 i2
  | .lhi r1 i2 => encRI 0xB8#8 r1 i2
  | .chi r1 i2 => encRI 0xB9#8 r1 i2
  | .ahi r1 i2 => encRI 0xBA#8 r1 i2
  | .shi r1 i2 => encRI 0xBB#8 r1 i2
  | .mhi r1 i2 => encRI 0xBC#8 r1 i2
  | .lpsr r1 r2 => encRR 0xC0#8 r1 r2
  | .lnsr r1 r2 => encRR 0xC1#8 r1 r2
  | .ltsr r1 r2 => encRR 0xC2#8 r1 r2
  | .lcsr r1 r2 => encRR 0xC3#8 r1 r2
  | .nsr r1 r2 => encRR 0xC4#8 r1 r2
  | .clsr r1 r2 => encRR 0xC5#8 r1 r2
  | .osr r1 r2 => encRR 0xC6#8 r1 r2
  | .xsr r1 r2 => encRR 0xC7#8 r1 r2
  | .lsr r1 r2 => encRR 0xC8#8 r1 r2
  | .csr r1 r2 => encRR 0xC9#8 r1 r2
  | .asr r1 r2 => encRR 0xCA#8 r1 r2
  | .ssr r1 r2 => encRR 0xCB#8 r1 r2
  | .msr r1 r2 => encRR 0xCC#8 r1 r2
  | .dsr r1 r2 => encRR 0xCD#8 r1 r2
  | .bur r2 => encRR 0xCE#8 0 r2
  | .nrm r1 r2 => encRR 0xCF#8 r1 r2
  | .lhr r1 r2 => encRR 0xD0#8 r1 r2
  | .mvn l b1 d1 b2 d2 => encSS 0xD1#8 l b1 d1 b2 d2
  | .mvc l b1 d1 b2 d2 => encSS 0xD2#8 l b1 d1 b2 d2
  | .mvz l b1 d1 b2 d2 => encSS 0xD3#8 l b1 d1 b2 d2
  | .nc l b1 d1 b2 d2 => encSS 0xD4#8 l b1 d1 b2 d2
  | .clc l b1 d1 b2 d2 => encSS 0xD5#8 l b1 d1 b2 d2
  | .oc l b1 d1 b2 d2 => encSS 0xD6#8 l b1 d1 b2 d2
  | .xc l b1 d1 b2 d2 => encSS 0xD7#8 l b1 d1 b2 d2
  | .tr l b1 d1 b2 d2 => encSS 0xDC#8 l b1 d1 b2 d2
  | .trt l b1 d1 b2 d2 => encSS 0xDD#8 l b1 d1 b2 d2
  | .mvo l1 l2 b1 d1 b2 d2 => encSS 0xF1#8 (byteOf l1 l2) b1 d1 b2 d2
  | .pack l1 l2 b1 d1 b2 d2 => encSS 0xF2#8 (byteOf l1 l2) b1 d1 b2 d2
  | .unpk l1 l2 b1 d1 b2 d2 => encSS 0xF3#8 (byteOf l1 l2) b1 d1 b2 d2

/-- The bytes of an instruction image of `n` bits, numbered as spec/opcode_table.json numbers them: the whole
instruction is one number whose rightmost bit is bit 0, its first byte in storage the leftmost (R62; log 14). -/
def imageBytes (nbits w : Nat) : List Byte :=
  (List.range (nbits / 8)).map fun k => BitVec.ofNat 8 (w / 2 ^ (8 * (nbits / 8 - 1 - k)))

/-- The same image followed by zero bytes up to the longest instruction, six bytes. -/
def imageBytes6 (nbits w : Nat) : List Byte :=
  imageBytes nbits w ++ List.replicate (6 - nbits / 8) 0#8

/-- The instruction the decoder reads from an instruction image, every option installed. -/
def decodeTableWord (nbits w : Nat) : Option Instr :=
  match decode Options.all (imageBytes6 nbits w) with
  | .ok (i, _) => some i
  | .error _ => none

end Sys2Proof
end

