-- ==== Sys2Proof/Machine/Flags.lean ====
section
/-! DEFINITION.
Arithmetic results with their overflow and carry, and every condition-code computation (R46, R143, R212, R323, R425).
-/
namespace Sys2Proof.Machine

/-- The integer is representable in `w` bits, two's complement. -/
def fits (w : Nat) (t : Int) : Bool := decide (-(2 ^ (w - 1)) ≤ t) && decide (t ≤ 2 ^ (w - 1) - 1)

/-- An exact integer as a `w`-bit result, with its overflow. -/
def narrow (w : Nat) (t : Int) : BitVec w × Bool := (BitVec.ofInt w t, !fits w t)

/-- `addS` (R143): signed sum and overflow. -/
def addS {w : Nat} (a b : BitVec w) : BitVec w × Bool := narrow w (a.toInt + b.toInt)

/-- `subS` (R143): signed difference and overflow. -/
def subS {w : Nat} (a b : BitVec w) : BitVec w × Bool := narrow w (a.toInt - b.toInt)

/-- `addL` (R143): sum and carry out of the sign position. -/
def addL {w : Nat} (a b : BitVec w) : BitVec w × Bool :=
  let t := a.toNat + b.toNat
  (BitVec.ofNat w t, decide (2 ^ w ≤ t))

/-- `subL` (R143): difference and carry out of the sign position. -/
def subL {w : Nat} (a b : BitVec w) : BitVec w × Bool :=
  let t := a.toNat + (~~~b).toNat + 1
  (BitVec.ofNat w t, decide (2 ^ w ≤ t))

/-- The absolute value, with overflow for the maximum negative number (R155, R352). -/
def absS {w : Nat} (v : BitVec w) : BitVec w × Bool := if v.toInt < 0 then subS 0 v else (v, false)

/-- The negative of the absolute value (R156, R351). -/
def negAbs {w : Nat} (v : BitVec w) : BitVec w := if 0 < v.toInt then BitVec.ofInt w (-v.toInt) else v

/-- `ccS` (R143): zero, less than zero, greater than zero. -/
def ccS {w : Nat} (r : BitVec w) : Cc := if r = 0 then 0 else if r.toInt < 0 then 1 else 2

/-- The condition code of an arithmetic result that may overflow (R143). -/
def ccArith {w : Nat} (r : BitVec w × Bool) : Cc := if r.2 then 3 else ccS r.1

/-- `ccL` (R143): bit 34 the carry, bit 35 a nonzero result. -/
def ccL {w : Nat} (r : BitVec w × Bool) : Cc := (if r.2 then 2 else 0) + (if r.1 = 0 then 0 else 1)

/-- The condition code of a comparison: equal, first low, first high. -/
def ccCompare (a b : Int) : Cc := if a = b then 0 else if a < b then 1 else 2

/-- An algebraic comparison (R168). -/
def ccSigned {w : Nat} (a b : BitVec w) : Cc := ccCompare a.toInt b.toInt

/-- A logical comparison (R220). -/
def ccUnsigned {w : Nat} (a b : BitVec w) : Cc := ccCompare a.toNat b.toNat

/-- The condition code of a connective: zero, not zero (R212). -/
def ccZero {w : Nat} (r : BitVec w) : Cc := if r = 0 then 0 else 1

/-- The condition code of a test under mask (R236, R378). -/
def ccMask {w : Nat} (v mask : BitVec w) : Cc :=
  if v &&& mask = 0 then 0 else if v &&& mask = mask then 3 else 1

/-- `ccF` (R425): the condition code of a floating-point word. -/
def ccF (v : Word) : Cc := if slice v 8 24 = 0#24 then 0 else if v.msb then 1 else 2

/-- The end of an operation whose result may overflow (`setArith` of R143), the result already written: set the condition
code, and take the fixed-point overflow interruption if PSW bit 36 is one (R144, R488). -/
def finishArith {w : Nat} (r : BitVec w × Bool) (s : State) : Result :=
  let t := s.setCc (ccArith r)
  if r.2 && t.maskOverflow then raise .fixedOverflow t else .next t

/-- Write an arithmetic result to general register `r` and finish (R158). -/
def putArith (r : Reg) (x : Word × Bool) (s : State) : Result := finishArith x (s.setReg r x.1)

/-- Write an arithmetic result to bits 16-31 of general register `r` and finish (R331). -/
def putArithLo (r : Reg) (x : Half × Bool) (s : State) : Result := finishArith x (s.setLo r x.1)

/-- Write an arithmetic result to the register pair `r` and finish (R410). -/
def putArithPair (r : Reg) (x : Dword × Bool) (s : State) : Result := finishArith x (s.setPair r x.1)

/-- A terminated instruction would have loaded general register `r` and set the condition code. -/
def spoilRegCc (r : Reg) (s : State) : State := spoilCc (spoilReg r s)

/-- A terminated instruction would have loaded bits 16-31 of general register `r` and set the condition code. -/
def spoilLoCc (r : Reg) (s : State) : State := spoilCc (spoilLo r s)

/-- A terminated instruction would have loaded the register pair `r` and set the condition code. -/
def spoilPairCc (r : Reg) (s : State) : State := spoilCc (spoilPair r s)

/-- A terminated instruction would have loaded floating-point register `r` and set the condition code. -/
def spoilFpCc (r : Reg) (s : State) : State := spoilCc (spoilFp r s)

/-- The sign bit alone. -/
def signBit (w : Nat) : BitVec w := BitVec.twoPow w (w - 1)

/-- Arithmetic left shift: the sign stays, the integer field is shifted, and a bit unlike the sign shifted out of the
integer field is an overflow (R190, R192, R370). -/
def shiftLeftA {w : Nat} (v : BitVec w) (n : Nat) : BitVec w × Bool :=
  ((v &&& signBit w) ||| ((v <<< n) &&& ~~~(signBit w)),
    (List.range (min n (w - 1))).any fun k => v.getLsbD (w - 2 - k) != v.msb)

/-- Arithmetic right shift, rounding downward (R191). -/
def shiftRightA {w : Nat} (v : BitVec w) (n : Nat) : BitVec w := BitVec.ofInt w (v.toInt / 2 ^ n)

/-- Logical left shift (R249). -/
def shiftLeftL {w : Nat} (v : BitVec w) (n : Nat) : BitVec w := BitVec.ofNat w (v.toNat * 2 ^ n)

/-- Logical right shift (R250). -/
def shiftRightL {w : Nat} (v : BitVec w) (n : Nat) : BitVec w := BitVec.ofNat w (v.toNat / 2 ^ n)

end Sys2Proof.Machine
end

