-- ==== Sys2Proof/Machine/Branching.lean ====
section
/-! DEFINITION.
The branching instructions (spec/43_branching.md, R260 to R274). The branch address is formed from the registers as they
are at the start (R261) and is not examined (R260).
-/
namespace Sys2Proof.Machine

/-- Branch if the condition holds, else go on at the updated instruction address (R260). -/
def State.branchIf (s : State) (c : Bool) (t : Addr) : State := if c then s.setIa t else s

/-- The mask bit of the current condition code is one; the leftmost mask bit stands for code 0 (R265). -/
def State.maskTaken (s : State) (m1 : BitVec 4) : Bool := m1.getLsbD (3 - s.psw.cc.toNat)

/-- R266 BRANCH ON CONDITION, register. -/
def execBcr (m1 : BitVec 4) (r2 : Reg) (s : State) : Result :=
  .next (s.branchIf (r2 != 0#4 && s.maskTaken m1) (s.branchReg r2))

/-- R267 BRANCH ON CONDITION. -/
def execBc (m1 : BitVec 4) (x2 b2 : Reg) (d2 : Disp) (s : State) : Result :=
  .next (s.branchIf (s.maskTaken m1) (s.eax x2 b2 d2))

/-- R271 BRANCH AND LINK, register. -/
def execBalr (r1 r2 : Reg) (s : State) : Result :=
  .next ((s.setReg r1 (s.psw.right s.shortIlc)).branchIf (r2 != 0#4) (s.branchReg r2))

/-- R272 BRANCH AND LINK. The length code is 2. -/
def execBal (r1 x2 b2 : Reg) (d2 : Disp) (s : State) : Result :=
  .next ((s.setReg r1 (s.psw.right 2#2)).setIa (s.eax x2 b2 d2))

/-- R273 BRANCH ON COUNT, register. -/
def execBctr (r1 r2 : Reg) (s : State) : Result :=
  let v := s.reg r1 - 1#32
  .next ((s.setReg r1 v).branchIf (v != 0#32 && r2 != 0#4) (s.branchReg r2))

/-- R274 BRANCH ON COUNT. -/
def execBct (r1 x2 b2 : Reg) (d2 : Disp) (s : State) : Result :=
  let v := s.reg r1 - 1#32
  .next ((s.setReg r1 v).branchIf (v != 0#32) (s.eax x2 b2 d2))

/-- The sum of the first operand and the increment, wrapped to 32 bits (R268). -/
def State.indexSum (s : State) (r1 r3 : Reg) : Word := s.reg r1 + s.reg r3

/-- The sum is higher than the comparand, the register R3 with its low bit set (R268). -/
def State.indexHigh (s : State) (r1 r3 : Reg) : Bool :=
  decide ((s.reg (oddOf r3)).toInt < (s.indexSum r1 r3).toInt)

/-- R268 BRANCH ON INDEX HIGH. -/
def execBxh (r1 r3 b2 : Reg) (d2 : Disp) (s : State) : Result :=
  .next ((s.setReg r1 (s.indexSum r1 r3)).branchIf (s.indexHigh r1 r3) (s.ea b2 d2))

/-- R269 BRANCH ON INDEX LOW OR EQUAL. -/
def execBxle (r1 r3 b2 : Reg) (d2 : Disp) (s : State) : Result :=
  .next ((s.setReg r1 (s.indexSum r1 r3)).branchIf (!s.indexHigh r1 r3) (s.ea b2 d2))

end Sys2Proof.Machine
end

