-- ==== Sys2Proof/Machine/Bytewise.lean ====
section
/-! DEFINITION.
Variable-length operands, processed one byte at a time (R65, R67, R202, R211): a byte of the second operand is fetched
before the byte of the first operand is touched (R494(e)), and an exception terminates the instruction (R75, R214).
-/
namespace Sys2Proof.Machine

/-- A part of such an instruction: an exception comes with the state at that moment. -/
abbrev Stage (α : Type) := Except (ProgEx × State) α

/-- Fetch one byte of an operand (`MemRead(a, 1)`). -/
def State.fetchByte (s : State) (a : Addr) : Stage (Byte × State) :=
  if s.available a then .ok (s.readByte a) else .error (.addressing, s)

/-- Store one byte of an operand (`MemWrite(a, 1, v)`). -/
def State.storeByte (s : State) (a : Addr) (v : Byte) : Stage State :=
  if !s.available a then .error (.addressing, s)
  else if s.cpuProtected a then .error (.protection, s)
  else .ok (s.writeByte a v)

/-- Left to right over `n` bytes: the byte at `a1` becomes `f` of itself and the byte at `a2` (R217 to R219, R227). `zero`
tells whether every result so far was zero, and the answer whether all of them are. -/
def combineBytes (f : Byte → Byte → Byte) (a1 a2 : Addr) : Nat → Bool → State → Stage (Bool × State)
  | 0, zero, s => .ok (zero, s)
  | n + 1, zero, s => do
    let x ← s.fetchByte a2
    let y ← x.2.fetchByte a1
    let t ← y.2.storeByte a1 (f y.1 x.1)
    combineBytes f (a1 + 1#20) (a2 + 1#20) n (zero && f y.1 x.1 == 0#8) t

/-- Left to right over `n` bytes: the byte at `a1` is replaced by the function byte it selects in the list at `a2`
(R247). -/
def translateBytes (a1 a2 : Addr) : Nat → State → Stage State
  | 0, s => .ok s
  | n + 1, s => do
    let x ← s.fetchByte a1
    let y ← x.2.fetchByte (a2 + x.1.setWidth 20)
    let t ← y.2.storeByte a1 y.1
    translateBytes (a1 + 1#20) a2 n t

/-- The result of a comparison of `n` bytes, left to right up to the first inequality (R223). -/
def compareBytes (a1 a2 : Addr) : Nat → State → Stage (Cc × State)
  | 0, s => .ok (0, s)
  | n + 1, s => do
    let x ← s.fetchByte a2
    let y ← x.2.fetchByte a1
    if y.1 = x.1 then compareBytes (a1 + 1#20) (a2 + 1#20) n y.2 else .ok (ccUnsigned y.1 x.1, y.2)

/-- The first byte of `n` that selects a nonzero function byte: its address, the function byte, and whether it is the
last (R248). -/
def scanBytes (a1 a2 : Addr) : Nat → State → Stage (Option (Addr × Byte × Bool) × State)
  | 0, s => .ok (none, s)
  | n + 1, s => do
    let x ← s.fetchByte a1
    let y ← x.2.fetchByte (a2 + x.1.setWidth 20)
    if y.1 = 0#8 then scanBytes (a1 + 1#20) a2 n y.2 else .ok (some (a1, y.1, n == 0), y.2)

/-- The end of an instruction that stores the `n` bytes at `a`: a terminated one leaves any value there (D5). -/
def storedField (a : Addr) (n : Nat) (x : Stage State) : Result :=
  match x with
  | .ok t => .next t
  | .error (e, t) => raise e (spoilBytes a n t)

/-- The same for an instruction that also sets the condition code: 0 when all its result bytes are zero (R227). -/
def storedFieldCc (a : Addr) (n : Nat) (x : Stage (Bool × State)) : Result :=
  match x with
  | .ok (zero, t) => .next (t.setCc (if zero then 0 else 1))
  | .error (e, t) => raise e (spoilCc (spoilBytes a n t))

/-- The end of a move of the `n` bytes at `a`, whose condition code stays (R217 to R219). -/
def movedField (a : Addr) (n : Nat) (x : Stage (Bool × State)) : Result := storedField a n (x.map (·.2))

/-- The number of bytes of an operand whose length field is `l` (R202, R211). -/
def lengthOf {w : Nat} (l : BitVec w) : Nat := l.toNat + 1

end Sys2Proof.Machine
end

