-- ==== Sys2Proof/Machine/Decimal.lean ====
section
/-! DEFINITION.
PACK, UNPACK and MOVE WITH OFFSET (spec/41_decimal.md, R200 to R205). The fields are processed from right to left: `p1`
and `p2` are the addresses of the rightmost bytes F(0) and S(0), and F(j) is at `p1 - j`.
-/
namespace Sys2Proof.Machine

/-- The byte S(j) of a second operand of `n2` bytes, which zeros extend on the left (R200). -/
def State.fetchDigit (s : State) (p2 : Addr) (n2 j : Nat) : Stage (Byte × State) :=
  if j < n2 then s.fetchByte (p2 - BitVec.ofNat 20 j) else .ok (0#8, s)

/-- Store the byte F(j) of the first operand. -/
def State.storeDigit (s : State) (p1 : Addr) (j : Nat) (v : Byte) : Stage State :=
  s.storeByte (p1 - BitVec.ofNat 20 j) v

/-- The two halves of a byte exchanged. -/
def swapByte (b : Byte) : Byte := byteOf (lo4 b) (hi4 b)

/-- `k` further result bytes of PACK from F(i) on (R204). -/
def packBytes (p1 p2 : Addr) (n2 : Nat) : Nat → Nat → State → Stage State
  | 0, _, s => .ok s
  | k + 1, i, s => do
    let x ← s.fetchDigit p2 n2 (2 * i - 1)
    let y ← x.2.fetchDigit p2 n2 (2 * i)
    let t ← y.2.storeDigit p1 i (byteOf (lo4 y.1) (lo4 x.1))
    packBytes p1 p2 n2 k (i + 1) t

/-- R204 PACK. -/
def execPack (l1 l2 : BitVec 4) (b1 : Reg) (d1 : Disp) (b2 : Reg) (d2 : Disp) (s : State) : Result :=
  let p1 := s.ea b1 d1 + l1.setWidth 20
  let p2 := s.ea b2 d2 + l2.setWidth 20
  storedField (s.ea b1 d1) (lengthOf l1) do
    let x ← s.fetchByte p2
    let t ← x.2.storeDigit p1 0 (swapByte x.1)
    packBytes p1 p2 (lengthOf l2) l1.toNat 1 t

/-- `k` further result bytes of UNPACK from F(i) on, two for each byte S(j) (R203). -/
def unpackBytes (zone : BitVec 4) (p1 p2 : Addr) (n2 : Nat) : Nat → Nat → Nat → State → Stage State
  | 0, _, _, s => .ok s
  | 1, i, j, s => do
    let x ← s.fetchDigit p2 n2 j
    x.2.storeDigit p1 i (byteOf zone (lo4 x.1))
  | k + 2, i, j, s => do
    let x ← s.fetchDigit p2 n2 j
    let t ← x.2.storeDigit p1 i (byteOf zone (lo4 x.1))
    let u ← t.storeDigit p1 (i + 1) (byteOf zone (hi4 x.1))
    unpackBytes zone p1 p2 n2 k (i + 2) (j + 1) u

/-- The zone that PSW bit 12 selects (R27, R201). -/
def zoneCode (ascii : Bool) : BitVec 4 := if ascii then 5#4 else 15#4

/-- R203 UNPACK. -/
def execUnpk (l1 l2 : BitVec 4) (b1 : Reg) (d1 : Disp) (b2 : Reg) (d2 : Disp) (s : State) : Result :=
  let p1 := s.ea b1 d1 + l1.setWidth 20
  let p2 := s.ea b2 d2 + l2.setWidth 20
  storedField (s.ea b1 d1) (lengthOf l1) do
    let x ← s.fetchByte p2
    let t ← x.2.storeDigit p1 0 (swapByte x.1)
    unpackBytes (zoneCode s.psw.a) p1 p2 (lengthOf l2) l1.toNat 1 1 t

/-- `k` further result bytes of MOVE WITH OFFSET from F(i) on; `prev` is the byte S(i - 1) (R205). -/
def offsetBytes (p1 p2 : Addr) (n2 : Nat) : Nat → Nat → Byte → State → Stage State
  | 0, _, _, s => .ok s
  | k + 1, i, prev, s => do
    let x ← s.fetchDigit p2 n2 i
    let t ← x.2.storeDigit p1 i (byteOf (lo4 x.1) (hi4 prev))
    offsetBytes p1 p2 n2 k (i + 1) x.1 t

/-- R205 MOVE WITH OFFSET. When both rightmost bytes are unavailable the exception is the same. -/
def execMvo (l1 l2 : BitVec 4) (b1 : Reg) (d1 : Disp) (b2 : Reg) (d2 : Disp) (s : State) : Result :=
  let p1 := s.ea b1 d1 + l1.setWidth 20
  let p2 := s.ea b2 d2 + l2.setWidth 20
  storedField (s.ea b1 d1) (lengthOf l1) do
    let y ← s.fetchByte p1
    let x ← y.2.fetchByte p2
    let t ← x.2.storeDigit p1 0 (byteOf (lo4 x.1) (lo4 y.1))
    offsetBytes p1 p2 (lengthOf l2) l1.toNat 1 x.1 t

end Sys2Proof.Machine
end

