-- ==== Sys2Proof/Machine/Double.lean ====
section
/-! DEFINITION.
The double precision fixed-point instructions (spec/46_double_precision.md, R400 to R416): 64-bit signed integers in
even/odd pairs of general registers; a storage operand needs word alignment (R401).
-/
namespace Sys2Proof.Machine

/-- Both register fields name pairs (R405). -/
def needEvens (s : State) (r1 r2 : Reg) (k : Result) : Result := needEven s r1 (needEven s r2 k)

/-- R407 LOAD DOUBLE, register. -/
def execLdr (r1 r2 : Reg) (s : State) : Result := needEvens s r1 r2 (.next (s.setPair r1 (s.pair r2)))

/-- R408 LOAD DOUBLE. -/
def execLd (r1 x2 b2 : Reg) (d2 : Disp) (s : State) : Result :=
  withDword s (s.eax x2 b2 d2) 4 (spoilPair r1) fun v s => needEven s r1 (.next (s.setPair r1 v))

/-- R409 LOAD COMPLEMENT DOUBLE. -/
def execLcdr (r1 r2 : Reg) (s : State) : Result := needEvens s r1 r2 (putArithPair r1 (subS 0 (s.pair r2)) s)

/-- R410 ADD DOUBLE, register. -/
def execAdr (r1 r2 : Reg) (s : State) : Result :=
  needEvens s r1 r2 (putArithPair r1 (addS (s.pair r1) (s.pair r2)) s)

/-- R411 ADD DOUBLE. -/
def execAd (r1 x2 b2 : Reg) (d2 : Disp) (s : State) : Result :=
  withDword s (s.eax x2 b2 d2) 4 (spoilPairCc r1) fun v s => needEven s r1 (putArithPair r1 (addS (s.pair r1) v) s)

/-- R412 SUBTRACT DOUBLE, register. -/
def execSdr (r1 r2 : Reg) (s : State) : Result :=
  needEvens s r1 r2 (putArithPair r1 (subS (s.pair r1) (s.pair r2)) s)

/-- R413 SUBTRACT DOUBLE. -/
def execSd (r1 x2 b2 : Reg) (d2 : Disp) (s : State) : Result :=
  withDword s (s.eax x2 b2 d2) 4 (spoilPairCc r1) fun v s => needEven s r1 (putArithPair r1 (subS (s.pair r1) v) s)

/-- R414 COMPARE DOUBLE, register. -/
def execCdr (r1 r2 : Reg) (s : State) : Result :=
  needEvens s r1 r2 (.next (s.setCc (ccSigned (s.pair r1) (s.pair r2))))

/-- R415 COMPARE DOUBLE. -/
def execCd (r1 x2 b2 : Reg) (d2 : Disp) (s : State) : Result :=
  withDword s (s.eax x2 b2 d2) 4 spoilCc fun v s => needEven s r1 (.next (s.setCc (ccSigned (s.pair r1) v)))

/-- R416 STORE DOUBLE. -/
def execStd (r1 x2 b2 : Reg) (d2 : Disp) (s : State) : Result :=
  let a := s.eax x2 b2 d2
  afterStoreCheck s a 8 4 (needEven s r1 (.next (s.writeDword a (s.pair r1))))

end Sys2Proof.Machine
end

