-- ==== Sys2Proof/Machine/FixedPoint.lean ====
section
/-! DEFINITION.
The fixed-point arithmetic instructions (spec/40_fixed_point.md, R140 to R193).
-/
namespace Sys2Proof.Machine

/-! ## Load -/

/-- R150 LOAD, register. -/
def execLr (r1 r2 : Reg) (s : State) : Result := .next (s.setReg r1 (s.reg r2))

/-- R151 LOAD. -/
def execL (r1 x2 b2 : Reg) (d2 : Disp) (s : State) : Result :=
  withWord s (s.eax x2 b2 d2) (spoilReg r1) fun v s => .next (s.setReg r1 v)

/-- R152 LOAD HALFWORD. -/
def execLh (r1 x2 b2 : Reg) (d2 : Disp) (s : State) : Result :=
  withHalf s (s.eax x2 b2 d2) (spoilReg r1) fun v s => .next (s.setReg r1 (v.signExtend 32))

/-- R153 LOAD AND TEST, register. -/
def execLtr (r1 r2 : Reg) (s : State) : Result := .next ((s.setReg r1 (s.reg r2)).setCc (ccS (s.reg r2)))

/-- R154 LOAD COMPLEMENT. -/
def execLcr (r1 r2 : Reg) (s : State) : Result := putArith r1 (subS 0 (s.reg r2)) s

/-- R155 LOAD POSITIVE. -/
def execLpr (r1 r2 : Reg) (s : State) : Result := putArith r1 (absS (s.reg r2)) s

/-- R156 LOAD NEGATIVE. -/
def execLnr (r1 r2 : Reg) (s : State) : Result :=
  .next ((s.setReg r1 (negAbs (s.reg r2))).setCc (ccS (negAbs (s.reg r2))))

/-- How many registers LM and STM move: from R1 up to R3, register 0 following 15 (R157). -/
def regCount (r1 r3 : Reg) : Nat := (r3 - r1).toNat + 1

/-- Load `n` registers from `r` on with the words from `a` on (R157). -/
def loadRegs (r : Reg) (a : Addr) : Nat → State → State
  | 0, s => s
  | n + 1, s =>
    let x := s.readWord a
    loadRegs (r + 1#4) (a + 4#20) n (x.2.setReg r x.1)

/-- R157 LOAD MULTIPLE. The alignment is tested with the first word, before any register is loaded. -/
def execLm (r1 r3 b2 : Reg) (d2 : Disp) (s : State) : Result :=
  let a := s.ea b2 d2
  let n := regCount r1 r3
  afterLoad s a 4 4 (spoilRegs r1 n) (afterLoad s a (4 * n) 4 (spoilRegs r1 n) (.next (loadRegs r1 a n s)))

/-! ## Add and subtract -/

/-- R158 ADD, register. -/
def execAr (r1 r2 : Reg) (s : State) : Result := putArith r1 (addS (s.reg r1) (s.reg r2)) s

/-- R159 ADD. -/
def execA (r1 x2 b2 : Reg) (d2 : Disp) (s : State) : Result :=
  withWord s (s.eax x2 b2 d2) (spoilRegCc r1) fun v s => putArith r1 (addS (s.reg r1) v) s

/-- R160 ADD HALFWORD. -/
def execAh (r1 x2 b2 : Reg) (d2 : Disp) (s : State) : Result :=
  withHalf s (s.eax x2 b2 d2) (spoilRegCc r1) fun v s => putArith r1 (addS (s.reg r1) (v.signExtend 32)) s

/-- The end of a logical add or subtract (R161). -/
def putLogical (r : Reg) (x : Word × Bool) (s : State) : Result := .next ((s.setReg r x.1).setCc (ccL x))

/-- R161 ADD LOGICAL, register. -/
def execAlr (r1 r2 : Reg) (s : State) : Result := putLogical r1 (addL (s.reg r1) (s.reg r2)) s

/-- R162 ADD LOGICAL. -/
def execAl (r1 x2 b2 : Reg) (d2 : Disp) (s : State) : Result :=
  withWord s (s.eax x2 b2 d2) (spoilRegCc r1) fun v s => putLogical r1 (addL (s.reg r1) v) s

/-- R163 SUBTRACT, register. -/
def execSr (r1 r2 : Reg) (s : State) : Result := putArith r1 (subS (s.reg r1) (s.reg r2)) s

/-- R164 SUBTRACT. -/
def execS (r1 x2 b2 : Reg) (d2 : Disp) (s : State) : Result :=
  withWord s (s.eax x2 b2 d2) (spoilRegCc r1) fun v s => putArith r1 (subS (s.reg r1) v) s

/-- R165 SUBTRACT HALFWORD. -/
def execSh (r1 x2 b2 : Reg) (d2 : Disp) (s : State) : Result :=
  withHalf s (s.eax x2 b2 d2) (spoilRegCc r1) fun v s => putArith r1 (subS (s.reg r1) (v.signExtend 32)) s

/-- R166 SUBTRACT LOGICAL, register. -/
def execSlr (r1 r2 : Reg) (s : State) : Result := putLogical r1 (subL (s.reg r1) (s.reg r2)) s

/-- R167 SUBTRACT LOGICAL. -/
def execSl (r1 x2 b2 : Reg) (d2 : Disp) (s : State) : Result :=
  withWord s (s.eax x2 b2 d2) (spoilRegCc r1) fun v s => putLogical r1 (subL (s.reg r1) v) s

/-! ## Compare -/

/-- R168 COMPARE, register. -/
def execCr (r1 r2 : Reg) (s : State) : Result := .next (s.setCc (ccSigned (s.reg r1) (s.reg r2)))

/-- R169 COMPARE. -/
def execC (r1 x2 b2 : Reg) (d2 : Disp) (s : State) : Result :=
  withWord s (s.eax x2 b2 d2) spoilCc fun v s => .next (s.setCc (ccSigned (s.reg r1) v))

/-- R170 COMPARE HALFWORD. -/
def execCh (r1 x2 b2 : Reg) (d2 : Disp) (s : State) : Result :=
  withHalf s (s.eax x2 b2 d2) spoilCc fun v s => .next (s.setCc (ccSigned (s.reg r1) (v.signExtend 32)))

/-! ## Multiply and divide -/

/-- The 64-bit product of two 32-bit signed integers (R171). -/
def product (a b : Word) : Dword := BitVec.ofInt 64 (a.toInt * b.toInt)

/-- The multiplicand is the odd register of the pair, and the product replaces the pair (R171). -/
def multiplyPair (r1 : Reg) (v : Word) (s : State) : Result :=
  needEven s r1 (.next (s.setPair r1 (product (s.reg (oddOf r1)) v)))

/-- R171 MULTIPLY, register. -/
def execMr (r1 r2 : Reg) (s : State) : Result := multiplyPair r1 (s.reg r2) s

/-- R172 MULTIPLY. -/
def execM (r1 x2 b2 : Reg) (d2 : Disp) (s : State) : Result :=
  withWord s (s.eax x2 b2 d2) (spoilPair r1) fun v s => multiplyPair r1 v s

/-- R173 MULTIPLY HALFWORD. -/
def execMh (r1 x2 b2 : Reg) (d2 : Disp) (s : State) : Result :=
  withHalf s (s.eax x2 b2 d2) (spoilReg r1) fun v s =>
    .next (s.setReg r1 (BitVec.ofInt 32 ((s.reg r1).toInt * v.toInt)))

/-- The quotient rounded toward zero (R174, D20). -/
def quotient (n d : Int) : Int := n.tdiv d

/-- The pair is divided: remainder to the even, quotient to the odd register (R174). -/
def dividePair (r1 : Reg) (v : Word) (s : State) : Result :=
  needEven s r1 (
    let n := (s.pair r1).toInt
    let q := quotient n v.toInt
    if v = 0 then raise .fixedDivide s
    else if !fits 32 q then raise .fixedDivide s
    else .next ((s.setReg r1 (BitVec.ofInt 32 (n - q * v.toInt))).setReg (oddOf r1) (BitVec.ofInt 32 q)))

/-- R174 DIVIDE, register. -/
def execDr (r1 r2 : Reg) (s : State) : Result := dividePair r1 (s.reg r2) s

/-- R175 DIVIDE. -/
def execD (r1 x2 b2 : Reg) (d2 : Disp) (s : State) : Result :=
  withWord s (s.eax x2 b2 d2) (spoilPair r1) fun v s => dividePair r1 v s

/-! ## Radix conversion -/

/-- The fifteen digit codes of a packed decimal double word, most significant first (R185). -/
def packedDigits (w : Dword) : List Nat := (List.range 15).map fun k => (slice w (4 * k) 4).toNat

/-- The sign code of a packed decimal double word (R185). -/
def packedSign (w : Dword) : Nat := (slice w 60 4).toNat

/-- Every digit code is at most 9 and the sign code at least 10 (R185). -/
def packedValid (w : Dword) : Bool := (packedDigits w).all (· ≤ 9) && decide (10 ≤ packedSign w)

/-- The number a valid packed decimal double word stands for; sign codes 11 and 13 are minus (R185). -/
def packedValue (w : Dword) : Int :=
  let m : Nat := (packedDigits w).foldl (fun x d => 10 * x + d) 0
  if packedSign w = 11 ∨ packedSign w = 13 then -(m : Int) else m

/-- R185 CONVERT TO BINARY. -/
def execCvb (r1 x2 b2 : Reg) (d2 : Disp) (s : State) : Result :=
  withDword s (s.eax x2 b2 d2) 8 (spoilReg r1) fun w s =>
    if !packedValid w then raise .data s
    else
      let t := s.setReg r1 (BitVec.ofInt 32 (packedValue w))
      if fits 32 (packedValue w) then .next t else raise .fixedDivide t

/-- The sign code generated in the state of PSW bit 12 (R186, R201). -/
def signCode (ascii negative : Bool) : Nat :=
  if ascii then (if negative then 11 else 10) else (if negative then 13 else 12)

/-- The packed decimal double word of a 32-bit signed integer (R186). -/
def packDecimal (ascii : Bool) (v : Word) : Dword :=
  let m := v.toInt.natAbs
  let digits := (List.range 15).map fun k => m / 10 ^ (14 - k) % 10
  BitVec.ofNat 64 (16 * digits.foldl (fun x d => 16 * x + d) 0 + signCode ascii (decide (v.toInt < 0)))

/-- R186 CONVERT TO DECIMAL. -/
def execCvd (r1 x2 b2 : Reg) (d2 : Disp) (s : State) : Result :=
  let a := s.eax x2 b2 d2
  afterStoreCheck s a 8 8 (.next (s.writeDword a (packDecimal s.psw.a (s.reg r1))))

/-! ## Store -/

/-- R187 STORE. -/
def execSt (r1 x2 b2 : Reg) (d2 : Disp) (s : State) : Result :=
  let a := s.eax x2 b2 d2
  afterStoreCheck s a 4 4 (.next (s.writeWord a (s.reg r1)))

/-- R188 STORE HALFWORD. -/
def execSth (r1 x2 b2 : Reg) (d2 : Disp) (s : State) : Result :=
  let a := s.eax x2 b2 d2
  afterStoreCheck s a 2 2 (.next (s.writeHalf a (s.lo r1)))

/-- Store `n` registers from `r` on in the words from `a` on (R189). -/
def storeRegs (r : Reg) (a : Addr) : Nat → State → State
  | 0, s => s
  | n + 1, s => storeRegs (r + 1#4) (a + 4#20) n (s.writeWord a (s.reg r))

/-- What the stores of `n` words from `a` on meet first, word by word (R189). -/
def State.storeWordsError (s : State) (a : Addr) : Nat → Option ProgEx
  | 0 => none
  | n + 1 =>
    match s.storeError a 4 4 with
    | some e => some e
    | none => s.storeWordsError (a + 4#20) n

/-- R189 STORE MULTIPLE. Terminated by a protection or addressing exception: the whole storage area, as far as it is
available and unprotected, holds any value. -/
def execStm (r1 r3 b2 : Reg) (d2 : Disp) (s : State) : Result :=
  let a := s.ea b2 d2
  let n := regCount r1 r3
  match s.storeWordsError a n with
  | none => .next (storeRegs r1 a n s)
  | some .specification => raise .specification s
  | some e => raise e (spoilBytes a (4 * n) s)

/-! ## Shifts -/

/-- R190 SHIFT LEFT SINGLE. -/
def execSla (r1 b2 : Reg) (d2 : Disp) (s : State) : Result :=
  putArith r1 (shiftLeftA (s.reg r1) (s.shiftAmount b2 d2)) s

/-- R191 SHIFT RIGHT SINGLE. -/
def execSra (r1 b2 : Reg) (d2 : Disp) (s : State) : Result :=
  let v := shiftRightA (s.reg r1) (s.shiftAmount b2 d2)
  .next ((s.setReg r1 v).setCc (ccS v))

/-- R192 SHIFT LEFT DOUBLE. -/
def execSlda (r1 b2 : Reg) (d2 : Disp) (s : State) : Result :=
  needEven s r1 (putArithPair r1 (shiftLeftA (s.pair r1) (s.shiftAmount b2 d2)) s)

/-- R193 SHIFT RIGHT DOUBLE. -/
def execSrda (r1 b2 : Reg) (d2 : Disp) (s : State) : Result :=
  let v := shiftRightA (s.pair r1) (s.shiftAmount b2 d2)
  needEven s r1 (.next ((s.setPair r1 v).setCc (ccS v)))

end Sys2Proof.Machine
end

