-- ==== Sys2Proof/Machine/Float.lean ====
section
/-! DEFINITION.
The floating-point instructions (spec/47_floating_point.md, R420 to R451): 32-bit hexadecimal floating-point words in
registers 0, 2, 4, 6. The helpers are those of R429.
-/
namespace Sys2Proof.Machine

/-- Sign, characteristic and fraction of a floating-point word (R421). -/
structure FpParts where
  neg : Bool
  char : Int
  frac : Nat
  deriving DecidableEq, Repr

/-- `unpack` (R429). -/
def fpUnpack (v : Word) : FpParts :=
  { neg := v.msb, char := ((slice v 1 7 : BitVec 7).toNat : Int), frac := (slice v 8 24 : BitVec 24).toNat }

/-- `pack` (R429): the characteristic modulo 128. -/
def fpPack (neg : Bool) (char : Int) (frac : Nat) : Word :=
  BitVec.ofBool neg ++ BitVec.ofInt 7 char ++ BitVec.ofNat 24 frac

/-- `TRUEZERO` (R423). -/
def trueZero : Word := 0#32

/-- Shift left by hexadecimal digits until at least `bound`, at most `fuel` digits, lowering the characteristic (R424). -/
def normalizeFrac (bound : Nat) : Nat → Int → Nat → Int × Nat
  | 0, c, f => (c, f)
  | fuel + 1, c, f => if f < bound then normalizeFrac bound fuel (c - 1) (f * 16) else (c, f)

/-- `prenorm` (R429): a nonzero fraction brought to a nonzero first digit. -/
def prenorm (c : Int) (f : Nat) : Int × Nat := normalizeFrac (16 ^ 5) 6 c f

/-- A signed value. -/
def signed (neg : Bool) (m : Nat) : Int := if neg then -(m : Int) else m

/-- `align` (R429): the common characteristic and the signed seven-digit values, one guard digit kept. -/
def fpAlign (a b : FpParts) : Int × Int × Int :=
  if b.char ≤ a.char then
    (a.char, signed a.neg (a.frac * 16), signed b.neg (b.frac * 16 / 16 ^ (a.char - b.char).toNat))
  else
    (b.char, signed a.neg (a.frac * 16 / 16 ^ (b.char - a.char).toNat), signed b.neg (b.frac * 16))

/-- The intermediate sum of an addition: sign, characteristic, and seven digits after the overflow carry (R436). -/
def fpSum (a b : FpParts) : FpParts :=
  let x := fpAlign a b
  let v := x.2.1 + x.2.2
  let m := v.natAbs
  if 16 ^ 7 ≤ m then { neg := decide (v < 0), char := x.1 + 1, frac := m / 16 }
  else { neg := decide (v < 0), char := x.1, frac := m }

/-- A result of floating-point arithmetic before it is brought into range: nothing significant, with the intermediate
characteristic, or sign, characteristic and six digits. -/
inductive FpResult where
  | zero (char : Int)
  | value (p : FpParts)
  deriving DecidableEq, Repr

/-- The sum postnormalized, guard digit included, and truncated; or only truncated (R436, R438). -/
def fpAddResult (normalize : Bool) (a b : FpParts) : FpResult :=
  let p := fpSum a b
  if normalize then
    if p.frac = 0 then .zero p.char
    else
      let x := normalizeFrac (16 ^ 6) 7 p.char p.frac
      .value { neg := p.neg, char := x.1, frac := x.2 / 16 }
  else if p.frac / 16 = 0 then .zero p.char
  else .value { neg := p.neg, char := p.char, frac := p.frac / 16 }

/-- Where a result with a nonzero fraction stands: in range, above 127 (R490) or below 0 (R491). -/
inductive FpRange where
  | inside | above | below
  deriving DecidableEq, Repr

/-- The range of a characteristic. -/
def fpRange (c : Int) : FpRange := if 127 < c then .above else if c < 0 then .below else .inside

/-- The word of a result with a nonzero fraction: the characteristic modulo 128, but a true zero for an underflow whose
mask is zero (R490, R491). -/
def fpWord (underflowMask : Bool) (p : FpParts) : Word :=
  if fpRange p.char = .below ∧ underflowMask = false then trueZero else fpPack p.neg p.char p.frac

/-- The exception of a result with a nonzero fraction (R490, R491). -/
def fpException (underflowMask : Bool) (p : FpParts) : Option ProgEx :=
  match fpRange p.char with
  | .inside => none
  | .above => some .exponentOverflow
  | .below => if underflowMask then some .exponentUnderflow else none

/-- Take an exception after the result is written, or go on (R480). -/
def complete (e : Option ProgEx) (s : State) : Result :=
  match e with
  | none => .next s
  | some e => raise e s

/-- The end of multiply, divide and halve (`fpFinish` of R429): the condition code stays. -/
def fpFinish (r1 : Reg) (p : FpParts) (s : State) : Result :=
  complete (fpException s.maskUnderflow p) (s.setFp r1 (fpWord s.maskUnderflow p))

/-- `significanceResult` (R429, R492): the characteristic stays with a zero fraction if the mask is one, else a true
zero. -/
def fpSignificance (r1 : Reg) (char : Int) (s : State) : Result :=
  let t := (s.setFp r1 (if s.maskSignificance then fpPack false char 0 else trueZero)).setCc 0
  complete (if s.maskSignificance then some .significance else none) t

/-- `fpAdd` (R429). -/
def fpAdd (normalize : Bool) (r1 : Reg) (a b : Word) (s : State) : Result :=
  match fpAddResult normalize (fpUnpack a) (fpUnpack b) with
  | .zero c => fpSignificance r1 c s
  | .value p =>
    let v := fpWord s.maskUnderflow p
    complete (fpException s.maskUnderflow p) ((s.setFp r1 v).setCc (ccF v))

/-- The sign of a floating-point word inverted (R433, R440). -/
def fpNegate (v : Word) : Word := v ^^^ 0x80000000#32

/-- `fpCompare` (R429). -/
def fpCompare (a b : Word) : Cc :=
  let x := fpAlign (fpUnpack a) (fpUnpack b)
  ccCompare x.2.1 x.2.2

/-- `fpMultiply` (R429). -/
def fpMultiply (r1 : Reg) (a b : Word) (s : State) : Result :=
  let x := fpUnpack a
  let y := fpUnpack b
  if x.frac = 0 ∨ y.frac = 0 then .next (s.setFp r1 trueZero)
  else
    let m := prenorm x.char x.frac
    let n := prenorm y.char y.frac
    let z := normalizeFrac (16 ^ 11) 1 (m.1 + n.1 - 64) (m.2 * n.2)
    fpFinish r1 { neg := x.neg ^^ y.neg, char := z.1, frac := z.2 / 16 ^ 6 } s

/-- `fpDivide` (R429): the divisor is tested before the dividend. -/
def fpDivide (r1 : Reg) (a b : Word) (s : State) : Result :=
  let x := fpUnpack a
  let y := fpUnpack b
  if y.frac = 0 then raise .floatDivide s
  else if x.frac = 0 then .next (s.setFp r1 trueZero)
  else
    let m := prenorm x.char x.frac
    let n := prenorm y.char y.frac
    let neg := x.neg ^^ y.neg
    let c := m.1 - n.1 + 64
    if n.2 ≤ m.2 then fpFinish r1 { neg := neg, char := c + 1, frac := m.2 * 16 ^ 5 / n.2 } s
    else fpFinish r1 { neg := neg, char := c, frac := m.2 * 16 ^ 6 / n.2 } s

/-- `fpHalve` (R429). -/
def fpHalve (r1 : Reg) (b : Word) (s : State) : Result :=
  let y := fpUnpack b
  if y.frac = 0 then .next (s.setFp r1 trueZero)
  else
    let z := normalizeFrac (16 ^ 6) 7 y.char (y.frac * 8)
    fpFinish r1 { neg := y.neg, char := z.1, frac := z.2 / 16 } s

/-- Both register numbers are floating-point registers' (R422). -/
def needFps (s : State) (r1 r2 : Reg) (k : Result) : Result := needFp s r1 (needFp s r2 k)

/-- A sign-control result goes to register `r1` and sets the condition code (R432). -/
def putFpTest (r1 : Reg) (v : Word) (s : State) : Result := .next ((s.setFp r1 v).setCc (ccF v))

/-! ## Load, sign control, store -/

/-- R430 LOAD, register. -/
def execLer (r1 r2 : Reg) (s : State) : Result := needFps s r1 r2 (.next (s.setFp r1 (s.fp r2)))

/-- R431 LOAD. -/
def execLe (r1 x2 b2 : Reg) (d2 : Disp) (s : State) : Result :=
  withWord s (s.eax x2 b2 d2) (spoilFp r1) fun v s => needFp s r1 (.next (s.setFp r1 v))

/-- R432 LOAD AND TEST. -/
def execLter (r1 r2 : Reg) (s : State) : Result := needFps s r1 r2 (putFpTest r1 (s.fp r2) s)

/-- R433 LOAD COMPLEMENT. -/
def execLcer (r1 r2 : Reg) (s : State) : Result := needFps s r1 r2 (putFpTest r1 (fpNegate (s.fp r2)) s)

/-- R434 LOAD POSITIVE. -/
def execLper (r1 r2 : Reg) (s : State) : Result :=
  needFps s r1 r2 (putFpTest r1 (s.fp r2 &&& 0x7FFFFFFF#32) s)

/-- R435 LOAD NEGATIVE. -/
def execLner (r1 r2 : Reg) (s : State) : Result :=
  needFps s r1 r2 (putFpTest r1 (s.fp r2 ||| 0x80000000#32) s)

/-- R451 STORE. -/
def execSte (r1 x2 b2 : Reg) (d2 : Disp) (s : State) : Result :=
  let a := s.eax x2 b2 d2
  afterStoreCheck s a 4 4 (needFp s r1 (.next (s.writeWord a (s.fp r1))))

/-! ## Add and subtract -/

/-- R436 ADD NORMALIZED, register. -/
def execAer (r1 r2 : Reg) (s : State) : Result := needFps s r1 r2 (fpAdd true r1 (s.fp r1) (s.fp r2) s)

/-- R437 ADD NORMALIZED. -/
def execAe (r1 x2 b2 : Reg) (d2 : Disp) (s : State) : Result :=
  withWord s (s.eax x2 b2 d2) (spoilFpCc r1) fun v s => needFp s r1 (fpAdd true r1 (s.fp r1) v s)

/-- R438 ADD UNNORMALIZED, register. -/
def execAur (r1 r2 : Reg) (s : State) : Result := needFps s r1 r2 (fpAdd false r1 (s.fp r1) (s.fp r2) s)

/-- R439 ADD UNNORMALIZED. -/
def execAu (r1 x2 b2 : Reg) (d2 : Disp) (s : State) : Result :=
  withWord s (s.eax x2 b2 d2) (spoilFpCc r1) fun v s => needFp s r1 (fpAdd false r1 (s.fp r1) v s)

/-- R440 SUBTRACT NORMALIZED, register. -/
def execSer (r1 r2 : Reg) (s : State) : Result :=
  needFps s r1 r2 (fpAdd true r1 (s.fp r1) (fpNegate (s.fp r2)) s)

/-- R441 SUBTRACT NORMALIZED. -/
def execSe (r1 x2 b2 : Reg) (d2 : Disp) (s : State) : Result :=
  withWord s (s.eax x2 b2 d2) (spoilFpCc r1) fun v s => needFp s r1 (fpAdd true r1 (s.fp r1) (fpNegate v) s)

/-- R442 SUBTRACT UNNORMALIZED, register. -/
def execSur (r1 r2 : Reg) (s : State) : Result :=
  needFps s r1 r2 (fpAdd false r1 (s.fp r1) (fpNegate (s.fp r2)) s)

/-- R443 SUBTRACT UNNORMALIZED. -/
def execSu (r1 x2 b2 : Reg) (d2 : Disp) (s : State) : Result :=
  withWord s (s.eax x2 b2 d2) (spoilFpCc r1) fun v s => needFp s r1 (fpAdd false r1 (s.fp r1) (fpNegate v) s)

/-! ## Compare and halve -/

/-- R444 COMPARE, register. -/
def execCer (r1 r2 : Reg) (s : State) : Result :=
  needFps s r1 r2 (.next (s.setCc (fpCompare (s.fp r1) (s.fp r2))))

/-- R445 COMPARE. -/
def execCe (r1 x2 b2 : Reg) (d2 : Disp) (s : State) : Result :=
  withWord s (s.eax x2 b2 d2) spoilCc fun v s => needFp s r1 (.next (s.setCc (fpCompare (s.fp r1) v)))

/-- R446 HALVE. -/
def execHer (r1 r2 : Reg) (s : State) : Result := needFps s r1 r2 (fpHalve r1 (s.fp r2) s)

/-! ## Multiply and divide -/

/-- R447 MULTIPLY, register. -/
def execMer (r1 r2 : Reg) (s : State) : Result := needFps s r1 r2 (fpMultiply r1 (s.fp r1) (s.fp r2) s)

/-- R448 MULTIPLY. -/
def execMe (r1 x2 b2 : Reg) (d2 : Disp) (s : State) : Result :=
  withWord s (s.eax x2 b2 d2) (spoilFp r1) fun v s => needFp s r1 (fpMultiply r1 (s.fp r1) v s)

/-- R449 DIVIDE, register. -/
def execDer (r1 r2 : Reg) (s : State) : Result := needFps s r1 r2 (fpDivide r1 (s.fp r1) (s.fp r2) s)

/-- R450 DIVIDE. -/
def execDe (r1 x2 b2 : Reg) (d2 : Disp) (s : State) : Result :=
  withWord s (s.eax x2 b2 d2) (spoilFp r1) fun v s => needFp s r1 (fpDivide r1 (s.fp r1) v s)

end Sys2Proof.Machine
end

