-- ==== Sys2Proof/Machine/Logical.lean ====
section
/-! DEFINITION.
The logical operations (spec/42_logical.md, R210 to R252).
-/
namespace Sys2Proof.Machine

/-! ## Move -/

/-- R216 MOVE, immediate. -/
def execMvi (i2 : Byte) (b1 : Reg) (d1 : Disp) (s : State) : Result :=
  let a := s.ea b1 d1
  afterStoreCheck s a 1 1 (.next (s.writeByte a i2))

/-- R217 MOVE, characters. -/
def execMvc (l : Byte) (b1 : Reg) (d1 : Disp) (b2 : Reg) (d2 : Disp) (s : State) : Result :=
  movedField (s.ea b1 d1) (lengthOf l) (combineBytes (fun _ x => x) (s.ea b1 d1) (s.ea b2 d2) (lengthOf l) true s)

/-- The zone of the first byte with the numeric of the second (R218). -/
def mergeNumeric (y x : Byte) : Byte := (slice y 0 4 : BitVec 4) ++ (slice x 4 4 : BitVec 4)

/-- R218 MOVE NUMERICS. -/
def execMvn (l : Byte) (b1 : Reg) (d1 : Disp) (b2 : Reg) (d2 : Disp) (s : State) : Result :=
  movedField (s.ea b1 d1) (lengthOf l) (combineBytes mergeNumeric (s.ea b1 d1) (s.ea b2 d2) (lengthOf l) true s)

/-- R219 MOVE ZONES. -/
def execMvz (l : Byte) (b1 : Reg) (d1 : Disp) (b2 : Reg) (d2 : Disp) (s : State) : Result :=
  movedField (s.ea b1 d1) (lengthOf l)
    (combineBytes (fun y x => mergeNumeric x y) (s.ea b1 d1) (s.ea b2 d2) (lengthOf l) true s)

/-! ## Compare logical -/

/-- R220 COMPARE LOGICAL, register. -/
def execClr (r1 r2 : Reg) (s : State) : Result := .next (s.setCc (ccUnsigned (s.reg r1) (s.reg r2)))

/-- R221 COMPARE LOGICAL. -/
def execCl (r1 x2 b2 : Reg) (d2 : Disp) (s : State) : Result :=
  withWord s (s.eax x2 b2 d2) spoilCc fun v s => .next (s.setCc (ccUnsigned (s.reg r1) v))

/-- R222 COMPARE LOGICAL, immediate. -/
def execCli (i2 : Byte) (b1 : Reg) (d1 : Disp) (s : State) : Result :=
  withByte s (s.ea b1 d1) spoilCc fun v s => .next (s.setCc (ccUnsigned v i2))

/-- R223 COMPARE LOGICAL, characters. Where the comparison is decided although a byte of an operand is unavailable, a free
value chooses between the comparison's end and the addressing exception (log 16). -/
def execClc (l : Byte) (b1 : Reg) (d1 : Disp) (b2 : Reg) (d2 : Disp) (s : State) : Result :=
  let a1 := s.ea b1 d1
  let a2 := s.ea b2 d2
  let n := lengthOf l
  match compareBytes a1 a2 n s with
  | .error (e, t) => raise e (spoilCc t)
  | .ok (c, t) =>
    if s.availableN a1 n && s.availableN a2 n then .next (t.setCc c)
    else if t.free.getLsbD 0 then raise .addressing (spoilCc t.draw)
    else .next (t.draw.setCc c)

/-! ## AND, OR, EXCLUSIVE OR -/

/-- A connective's result goes to general register `r` and sets the condition code (R224). -/
def putConnective (r : Reg) (v : Word) (s : State) : Result := .next ((s.setReg r v).setCc (ccZero v))

/-- A connective of the byte at `a` with an immediate byte (R226). -/
def connectByte (f : Byte → Byte → Byte) (a : Addr) (i2 : Byte) (s : State) : Result :=
  afterStoreCheck s a 1 1 (
    let x := s.readByte a
    .next ((x.2.writeByte a (f x.1 i2)).setCc (ccZero (f x.1 i2))))

/-- R224 AND, register. -/
def execNr (r1 r2 : Reg) (s : State) : Result := putConnective r1 (s.reg r1 &&& s.reg r2) s

/-- R225 AND. -/
def execN (r1 x2 b2 : Reg) (d2 : Disp) (s : State) : Result :=
  withWord s (s.eax x2 b2 d2) (spoilRegCc r1) fun v s => putConnective r1 (s.reg r1 &&& v) s

/-- R226 AND, immediate. -/
def execNi (i2 : Byte) (b1 : Reg) (d1 : Disp) (s : State) : Result := connectByte (· &&& ·) (s.ea b1 d1) i2 s

/-- R227 AND, characters. -/
def execNc (l : Byte) (b1 : Reg) (d1 : Disp) (b2 : Reg) (d2 : Disp) (s : State) : Result :=
  storedFieldCc (s.ea b1 d1) (lengthOf l) (combineBytes (· &&& ·) (s.ea b1 d1) (s.ea b2 d2) (lengthOf l) true s)

/-- R228 OR, register. -/
def execOr (r1 r2 : Reg) (s : State) : Result := putConnective r1 (s.reg r1 ||| s.reg r2) s

/-- R229 OR. -/
def execO (r1 x2 b2 : Reg) (d2 : Disp) (s : State) : Result :=
  withWord s (s.eax x2 b2 d2) (spoilRegCc r1) fun v s => putConnective r1 (s.reg r1 ||| v) s

/-- R230 OR, immediate. -/
def execOi (i2 : Byte) (b1 : Reg) (d1 : Disp) (s : State) : Result := connectByte (· ||| ·) (s.ea b1 d1) i2 s

/-- R231 OR, characters. -/
def execOc (l : Byte) (b1 : Reg) (d1 : Disp) (b2 : Reg) (d2 : Disp) (s : State) : Result :=
  storedFieldCc (s.ea b1 d1) (lengthOf l) (combineBytes (· ||| ·) (s.ea b1 d1) (s.ea b2 d2) (lengthOf l) true s)

/-- R232 EXCLUSIVE OR, register. -/
def execXr (r1 r2 : Reg) (s : State) : Result := putConnective r1 (s.reg r1 ^^^ s.reg r2) s

/-- R233 EXCLUSIVE OR. -/
def execX (r1 x2 b2 : Reg) (d2 : Disp) (s : State) : Result :=
  withWord s (s.eax x2 b2 d2) (spoilRegCc r1) fun v s => putConnective r1 (s.reg r1 ^^^ v) s

/-- R234 EXCLUSIVE OR, immediate. -/
def execXi (i2 : Byte) (b1 : Reg) (d1 : Disp) (s : State) : Result := connectByte (· ^^^ ·) (s.ea b1 d1) i2 s

/-- R235 EXCLUSIVE OR, characters. -/
def execXc (l : Byte) (b1 : Reg) (d1 : Disp) (b2 : Reg) (d2 : Disp) (s : State) : Result :=
  storedFieldCc (s.ea b1 d1) (lengthOf l) (combineBytes (· ^^^ ·) (s.ea b1 d1) (s.ea b2 d2) (lengthOf l) true s)

/-! ## Test, insert, store, load address -/

/-- R236 TEST UNDER MASK. -/
def execTm (i2 : Byte) (b1 : Reg) (d1 : Disp) (s : State) : Result :=
  withByte s (s.ea b1 d1) spoilCc fun v s => .next (s.setCc (ccMask v i2))

/-- R237 INSERT CHARACTER. -/
def execIc (r1 x2 b2 : Reg) (d2 : Disp) (s : State) : Result :=
  withByte s (s.eax x2 b2 d2) (spoilChar r1) fun v s => .next (s.setReg r1 (slice (s.reg r1) 0 24 ++ v))

/-- R238 STORE CHARACTER. -/
def execStc (r1 x2 b2 : Reg) (d2 : Disp) (s : State) : Result :=
  let a := s.eax x2 b2 d2
  afterStoreCheck s a 1 1 (.next (s.writeByte a (slice (s.reg r1) 24 8)))

/-- R239 LOAD ADDRESS. -/
def execLa (r1 x2 b2 : Reg) (d2 : Disp) (s : State) : Result :=
  .next (s.setReg r1 ((s.ea24 x2 b2 d2).setWidth 32))

/-! ## Translate -/

/-- R247 TRANSLATE. -/
def execTr (l : Byte) (b1 : Reg) (d1 : Disp) (b2 : Reg) (d2 : Disp) (s : State) : Result :=
  storedField (s.ea b1 d1) (lengthOf l) (translateBytes (s.ea b1 d1) (s.ea b2 d2) (lengthOf l) s)

/-- The results of TRANSLATE AND TEST at a nonzero function byte: the low 16 bits of the argument address with zeros in
bits 8-15 go to register 1, the function byte to bits 24-31 of register 2 (R248, D9). -/
def State.putScan (s : State) (a : Addr) (v : Byte) : State :=
  let t := s.setReg 1 ((slice (s.reg 1) 0 8 : BitVec 8) ++ 0#8 ++ (slice a 4 16 : Half))
  t.setReg 2 ((slice (t.reg 2) 0 24 : BitVec 24) ++ v)

/-- R248 TRANSLATE AND TEST. -/
def execTrt (l : Byte) (b1 : Reg) (d1 : Disp) (b2 : Reg) (d2 : Disp) (s : State) : Result :=
  match scanBytes (s.ea b1 d1) (s.ea b2 d2) (lengthOf l) s with
  | .error (e, t) => raise e (spoilCc (spoilReg 2 (spoilReg 1 t)))
  | .ok (none, t) => .next (t.setCc 0)
  | .ok (some (a, v, last), t) => .next ((t.putScan a v).setCc (if last then 2 else 1))

/-! ## Logical shifts -/

/-- R249 SHIFT LEFT SINGLE LOGICAL. -/
def execSll (r1 b2 : Reg) (d2 : Disp) (s : State) : Result :=
  .next (s.setReg r1 (shiftLeftL (s.reg r1) (s.shiftAmount b2 d2)))

/-- R250 SHIFT RIGHT SINGLE LOGICAL. -/
def execSrl (r1 b2 : Reg) (d2 : Disp) (s : State) : Result :=
  .next (s.setReg r1 (shiftRightL (s.reg r1) (s.shiftAmount b2 d2)))

/-- R251 SHIFT LEFT DOUBLE LOGICAL. -/
def execSldl (r1 b2 : Reg) (d2 : Disp) (s : State) : Result :=
  needEven s r1 (.next (s.setPair r1 (shiftLeftL (s.pair r1) (s.shiftAmount b2 d2))))

/-- R252 SHIFT RIGHT DOUBLE LOGICAL. -/
def execSrdl (r1 b2 : Reg) (d2 : Disp) (s : State) : Result :=
  needEven s r1 (.next (s.setPair r1 (shiftRightL (s.pair r1) (s.shiftAmount b2 d2))))

end Sys2Proof.Machine
end

