-- ==== Sys2Proof/Machine/Short.lean ====
section
/-! DEFINITION.
The short precision instructions (spec/45_short_precision.md, R320 to R382). A short operand in a register is bits 16-31;
bits 0-15 are neither tested nor altered unless the rule says so (R321).
-/
namespace Sys2Proof.Machine

/-! ## Add and subtract -/

/-- R330 ADD HALFWORD IMMEDIATE. -/
def execAhi (r1 : Reg) (i2 : Half) (s : State) : Result := putArith r1 (addS (s.reg r1) (i2.signExtend 32)) s

/-- R331 ADD SHORT. -/
def execAs (r1 x2 b2 : Reg) (d2 : Disp) (s : State) : Result :=
  withHalf s (s.eax x2 b2 d2) (spoilLoCc r1) fun v s => putArithLo r1 (addS (s.lo r1) v) s

/-- R332 ADD SHORT IMMEDIATE. -/
def execAsi (r1 : Reg) (i2 : Half) (s : State) : Result := putArithLo r1 (addS (s.lo r1) i2) s

/-- R333 ADD SHORT REGISTER. -/
def execAsr (r1 r2 : Reg) (s : State) : Result := putArithLo r1 (addS (s.lo r1) (s.lo r2)) s

/-- R374 SUBTRACT HALFWORD IMMEDIATE. -/
def execShi (r1 : Reg) (i2 : Half) (s : State) : Result := putArith r1 (subS (s.reg r1) (i2.signExtend 32)) s

/-- R375 SUBTRACT SHORT. -/
def execSs (r1 x2 b2 : Reg) (d2 : Disp) (s : State) : Result :=
  withHalf s (s.eax x2 b2 d2) (spoilLoCc r1) fun v s => putArithLo r1 (subS (s.lo r1) v) s

/-- R376 SUBTRACT SHORT IMMEDIATE. -/
def execSsi (r1 : Reg) (i2 : Half) (s : State) : Result := putArithLo r1 (subS (s.lo r1) i2) s

/-- R377 SUBTRACT SHORT REGISTER. -/
def execSsr (r1 r2 : Reg) (s : State) : Result := putArithLo r1 (subS (s.lo r1) (s.lo r2)) s

/-! ## Branch unconditional -/

/-- R334 BRANCH UNCONDITIONAL. -/
def execBu (x2 b2 : Reg) (d2 : Disp) (s : State) : Result := .next (s.setIa (s.eax x2 b2 d2))

/-- R335 BRANCH UNCONDITIONAL REGISTER, also when the register number is 0. -/
def execBur (r2 : Reg) (s : State) : Result := .next (s.setIa (s.branchReg r2))

/-! ## Compare -/

/-- R336 COMPARE HALFWORD IMMEDIATE. -/
def execChi (r1 : Reg) (i2 : Half) (s : State) : Result := .next (s.setCc (ccSigned (s.reg r1) (i2.signExtend 32)))

/-- R337 COMPARE LOGICAL SHORT. -/
def execCls (r1 x2 b2 : Reg) (d2 : Disp) (s : State) : Result :=
  withHalf s (s.eax x2 b2 d2) spoilCc fun v s => .next (s.setCc (ccUnsigned (s.lo r1) v))

/-- R338 COMPARE LOGICAL SHORT IMMEDIATE. -/
def execClsi (r1 : Reg) (i2 : Half) (s : State) : Result := .next (s.setCc (ccUnsigned (s.lo r1) i2))

/-- R339 COMPARE LOGICAL SHORT REGISTER. -/
def execClsr (r1 r2 : Reg) (s : State) : Result := .next (s.setCc (ccUnsigned (s.lo r1) (s.lo r2)))

/-- R340 COMPARE SHORT. -/
def execCs (r1 x2 b2 : Reg) (d2 : Disp) (s : State) : Result :=
  withHalf s (s.eax x2 b2 d2) spoilCc fun v s => .next (s.setCc (ccSigned (s.lo r1) v))

/-- R341 COMPARE SHORT IMMEDIATE. -/
def execCsi (r1 : Reg) (i2 : Half) (s : State) : Result := .next (s.setCc (ccSigned (s.lo r1) i2))

/-- R342 COMPARE SHORT REGISTER. -/
def execCsr (r1 r2 : Reg) (s : State) : Result := .next (s.setCc (ccSigned (s.lo r1) (s.lo r2)))

/-! ## Divide and multiply -/

/-- A 32-bit dividend by a 16-bit divisor: a 16-bit quotient rounded toward zero (D20), sign-extended (R343). -/
def divideShort (r1 : Reg) (d : Half) (s : State) : Result :=
  let q := (s.reg r1).toInt.tdiv d.toInt
  if d = 0#16 then raise .fixedDivide s
  else if !fits 16 q then raise .fixedDivide s
  else .next (s.setReg r1 ((BitVec.ofInt 16 q).signExtend 32))

/-- R343 DIVIDE SHORT. -/
def execDs (r1 x2 b2 : Reg) (d2 : Disp) (s : State) : Result :=
  withHalf s (s.eax x2 b2 d2) (spoilReg r1) fun v s => divideShort r1 v s

/-- R344 DIVIDE SHORT IMMEDIATE. -/
def execDsi (r1 : Reg) (i2 : Half) (s : State) : Result := divideShort r1 i2 s

/-- R345 DIVIDE SHORT REGISTER. -/
def execDsr (r1 r2 : Reg) (s : State) : Result := divideShort r1 (s.lo r2) s

/-- R359 MULTIPLY HALFWORD IMMEDIATE. -/
def execMhi (r1 : Reg) (i2 : Half) (s : State) : Result :=
  .next (s.setReg r1 (BitVec.ofInt 32 ((s.reg r1).toInt * i2.toInt)))

/-- The 32-bit product of two short operands (R360). -/
def productShort (a b : Half) : Word := BitVec.ofInt 32 (a.toInt * b.toInt)

/-- R360 MULTIPLY SHORT. -/
def execMs (r1 x2 b2 : Reg) (d2 : Disp) (s : State) : Result :=
  withHalf s (s.eax x2 b2 d2) (spoilReg r1) fun v s => .next (s.setReg r1 (productShort (s.lo r1) v))

/-- R361 MULTIPLY SHORT IMMEDIATE. -/
def execMsi (r1 : Reg) (i2 : Half) (s : State) : Result := .next (s.setReg r1 (productShort (s.lo r1) i2))

/-- R362 MULTIPLY SHORT REGISTER. -/
def execMsr (r1 r2 : Reg) (s : State) : Result := .next (s.setReg r1 (productShort (s.lo r1) (s.lo r2)))

/-! ## Load -/

/-- R346 LOAD ADDRESS SHORT. -/
def execLas (r1 x2 b2 : Reg) (d2 : Disp) (s : State) : Result := .next (s.setLo r1 (s.ea16 x2 b2 d2))

/-- R347 LOAD COMPLEMENT SHORT REGISTER. -/
def execLcsr (r1 r2 : Reg) (s : State) : Result := putArithLo r1 (subS 0 (s.lo r2)) s

/-- R348 LOAD FULL TO SHORT REGISTER. -/
def execLfsr (r1 r2 : Reg) (s : State) : Result := putArithLo r1 (narrow 16 (s.reg r2).toInt) s

/-- R349 LOAD HALFWORD IMMEDIATE. -/
def execLhi (r1 : Reg) (i2 : Half) (s : State) : Result := .next (s.setReg r1 (i2.signExtend 32))

/-- R350 LOAD HALFWORD REGISTER. -/
def execLhr (r1 r2 : Reg) (s : State) : Result := .next (s.setReg r1 ((s.lo r2).signExtend 32))

/-- R351 LOAD NEGATIVE SHORT REGISTER. -/
def execLnsr (r1 r2 : Reg) (s : State) : Result :=
  .next ((s.setLo r1 (negAbs (s.lo r2))).setCc (ccS (negAbs (s.lo r2))))

/-- R352 LOAD POSITIVE SHORT REGISTER. -/
def execLpsr (r1 r2 : Reg) (s : State) : Result := putArithLo r1 (absS (s.lo r2)) s

/-- R353 LOAD SHORT. -/
def execLs (r1 x2 b2 : Reg) (d2 : Disp) (s : State) : Result :=
  withHalf s (s.eax x2 b2 d2) (spoilLo r1) fun v s => .next (s.setLo r1 v)

/-- R354 LOAD SHORT IMMEDIATE. -/
def execLsi (r1 : Reg) (i2 : Half) (s : State) : Result := .next (s.setLo r1 i2)

/-- R355 LOAD SHORT REGISTER. -/
def execLsr (r1 r2 : Reg) (s : State) : Result := .next (s.setLo r1 (s.lo r2))

/-- R356 LOAD AND TEST, a fullword instruction. -/
def execLt (r1 x2 b2 : Reg) (d2 : Disp) (s : State) : Result :=
  withWord s (s.eax x2 b2 d2) (spoilRegCc r1) fun v s => .next ((s.setReg r1 v).setCc (ccS v))

/-- R357 LOAD AND TEST SHORT. -/
def execLts (r1 x2 b2 : Reg) (d2 : Disp) (s : State) : Result :=
  withHalf s (s.eax x2 b2 d2) (spoilLoCc r1) fun v s => .next ((s.setLo r1 v).setCc (ccS v))

/-- R358 LOAD AND TEST SHORT REGISTER. -/
def execLtsr (r1 r2 : Reg) (s : State) : Result := .next ((s.setLo r1 (s.lo r2)).setCc (ccS (s.lo r2)))

/-! ## Normalize -/

/-- One place of the normalizing shift: the sign is kept and the integer shifted left (R363). -/
def normalizeOnce (v : Word) : Word := (shiftLeftA v 1).1

/-- Shift left until bits 0 and 1 differ, counting the places; zero is normalized (R363). At most `fuel` places. -/
def normalizeFrom : Nat → Word → Nat → Word × Nat
  | 0, v, n => (v, n)
  | fuel + 1, v, n =>
    if v ≠ 0#32 ∧ v.getLsbD 31 = v.getLsbD 30 then normalizeFrom fuel (normalizeOnce v) (n + 1) else (v, n)

/-- The normalized word and the shift count, never above 31 (R363). -/
def normalizeWord (v : Word) : Word × Nat := normalizeFrom 32 v 0

/-- R363 NORMALIZE. The first operand is written last. -/
def execNrm (r1 r2 : Reg) (s : State) : Result :=
  let x := normalizeWord (s.reg r1)
  .next (((s.setReg r2 (BitVec.ofNat 32 x.2)).setReg r1 x.1).setCc (ccS x.1))

/-! ## AND, OR, exclusive OR, test bits -/

/-- A connective's result goes to bits 16-31 of general register `r` and sets the condition code (R364). -/
def putConnectiveLo (r : Reg) (v : Half) (s : State) : Result := .next ((s.setLo r v).setCc (ccZero v))

/-- R364 AND SHORT. -/
def execNs (r1 x2 b2 : Reg) (d2 : Disp) (s : State) : Result :=
  withHalf s (s.eax x2 b2 d2) (spoilLoCc r1) fun v s => putConnectiveLo r1 (s.lo r1 &&& v) s

/-- R365 AND SHORT IMMEDIATE. -/
def execNsi (r1 : Reg) (i2 : Half) (s : State) : Result := putConnectiveLo r1 (s.lo r1 &&& i2) s

/-- R366 AND SHORT REGISTER. -/
def execNsr (r1 r2 : Reg) (s : State) : Result := putConnectiveLo r1 (s.lo r1 &&& s.lo r2) s

/-- R367 OR SHORT. -/
def execOs (r1 x2 b2 : Reg) (d2 : Disp) (s : State) : Result :=
  withHalf s (s.eax x2 b2 d2) (spoilLoCc r1) fun v s => putConnectiveLo r1 (s.lo r1 ||| v) s

/-- R368 OR SHORT IMMEDIATE. -/
def execOsi (r1 : Reg) (i2 : Half) (s : State) : Result := putConnectiveLo r1 (s.lo r1 ||| i2) s

/-- R369 OR SHORT REGISTER. -/
def execOsr (r1 r2 : Reg) (s : State) : Result := putConnectiveLo r1 (s.lo r1 ||| s.lo r2) s

/-- R380 EXCLUSIVE OR SHORT. -/
def execXs (r1 x2 b2 : Reg) (d2 : Disp) (s : State) : Result :=
  withHalf s (s.eax x2 b2 d2) (spoilLoCc r1) fun v s => putConnectiveLo r1 (s.lo r1 ^^^ v) s

/-- R381 EXCLUSIVE OR SHORT IMMEDIATE. -/
def execXsi (r1 : Reg) (i2 : Half) (s : State) : Result := putConnectiveLo r1 (s.lo r1 ^^^ i2) s

/-- R382 EXCLUSIVE OR SHORT REGISTER. -/
def execXsr (r1 r2 : Reg) (s : State) : Result := putConnectiveLo r1 (s.lo r1 ^^^ s.lo r2) s

/-- R378 TEST BITS. The mask is in storage. -/
def execTb (r1 x2 b2 : Reg) (d2 : Disp) (s : State) : Result :=
  withHalf s (s.eax x2 b2 d2) spoilCc fun v s => .next (s.setCc (ccMask (s.lo r1) v))

/-- R379 TEST BITS IMMEDIATE. -/
def execTbi (r1 : Reg) (i2 : Half) (s : State) : Result := .next (s.setCc (ccMask (s.lo r1) i2))

/-! ## Short shifts -/

/-- R370 SHIFT LEFT ARITHMETIC SHORT. Bits 16-31 alone are shifted and tested, as R370 and R321 have it, although a row of
R564 reads a note of the manual as a warning that the upper half takes part: the model follows R370 (log 53). -/
def execSlas (r1 b2 : Reg) (d2 : Disp) (s : State) : Result :=
  putArithLo r1 (shiftLeftA (s.lo r1) (s.shiftAmount b2 d2)) s

/-- R371 SHIFT LEFT LOGICAL SHORT. -/
def execSlls (r1 b2 : Reg) (d2 : Disp) (s : State) : Result :=
  .next (s.setLo r1 (shiftLeftL (s.lo r1) (s.shiftAmount b2 d2)))

/-- R372 SHIFT RIGHT ARITHMETIC SHORT. -/
def execSras (r1 b2 : Reg) (d2 : Disp) (s : State) : Result :=
  let v := shiftRightA (s.lo r1) (s.shiftAmount b2 d2)
  .next ((s.setLo r1 v).setCc (ccS v))

/-- R373 SHIFT RIGHT LOGICAL SHORT. -/
def execSrls (r1 b2 : Reg) (d2 : Disp) (s : State) : Result :=
  .next (s.setLo r1 (shiftRightL (s.lo r1) (s.shiftAmount b2 d2)))

end Sys2Proof.Machine
end

