-- ==== Sys2Proof/Machine/Status.lean ====
section
/-! DEFINITION.
Status switching, START I/O and TIMER READ AND SET (spec/44_status_switching.md, R290 to R307). Every check is made before
any state is written (R307).
-/
namespace Sys2Proof.Machine

/-- Continue in supervisor state, else suppress with the privileged-operation exception (R482, R541). -/
def needSupervisor (s : State) (k : Result) : Result := if s.psw.p then raise .privileged s else k

/-- R296 LOAD PSW: addressing, halfword boundary, privilege, double word boundary. -/
def execLpsw (b1 : Reg) (d1 : Disp) (s : State) : Result :=
  let a := s.ea b1 d1
  if !s.available a then raise .addressing s
  else if a.getLsbD 0 then raise .specification s
  else needSupervisor s (
    if a.toNat % 8 ≠ 0 then raise .specification s
    else
      let x := s.readDword a
      .next { x.2 with psw := Psw.unpack x.1 })

/-- R297 SET PROGRAM MASK. -/
def execSpm (r1 : Reg) (s : State) : Result :=
  .next ((s.setCc (slice (s.reg r1) 2 2)).setPm (slice (s.reg r1) 4 4))

/-- R299 SET SYSTEM MASK: addressing before privilege. -/
def execSsm (b1 : Reg) (d1 : Disp) (s : State) : Result :=
  let a := s.ea b1 d1
  afterLoad s a 1 1 id (needSupervisor s (
    let x := s.readByte a
    .next (x.2.setSm x.1)))

/-- R300 SUPERVISOR CALL: the interruption of R498, whose length code is 1, or 2 under EXECUTE. -/
def execSvc (code : Byte) (s : State) : Result :=
  .next (s.interrupt .supervisorCall (code.setWidth 16) s.shortIlc)

/-- R298 SET STORAGE KEY: privilege before addressing; no specification exception (D11). DMA has access, under the old key,
before the key is set (R90, R517; log 23). -/
def execSsk (r1 r2 : Reg) (s : State) : Result :=
  needSupervisor s (
    let block := (slice (s.reg r2) 12 10 : BitVec 10).toNat
    if s.params.memSize ≤ block * 1024 then raise .addressing s
    else .next (s.access.setKey block (slice (s.reg r1) 30 2)))

/-- R301 DIAGNOSE: a privileged-operation exception in problem state; in supervisor state the microprogram it branches to
is not given (D14). -/
def execDiagnose (_i2 : Byte) (_b1 : Reg) (_d1 : Disp) (s : State) : Result :=
  needSupervisor s (.refused .diagnoseMicroprogram)

/-- R302 TEST AND SET: the fetch and the store are one access, between which DMA has none (R78). An exception terminates
it: the condition code holds any value and the byte is unchanged. -/
def execTs (b1 : Reg) (d1 : Disp) (s : State) : Result :=
  let a := s.ea b1 d1
  match s.storeError a 1 1 with
  | none =>
    let x := s.readByte a
    .next ((x.2.setByte a 0xFF#8).setCc (if x.1.msb then 1 else 0))
  | some e => raise e (spoilCc s)

/-- Continue after the checks of a control halfword at `a` (R305, R306): its availability, then its boundary. -/
def afterControlCheck (s : State) (a : Addr) (k : Result) : Result :=
  if !s.available a then raise .addressing s
  else if a.getLsbD 0 then raise .specification s
  else k

/-! ## START I/O -/

/-- The four forms of a command word (R304). -/
inductive CommandForm where
  | output | input | resetInterface | testInterface
  deriving DecidableEq, Repr

/-- The form of a command word by its left byte (R304; log 22). -/
def commandForm (p : Params) (cmd : Half) : Option CommandForm :=
  let left : Byte := slice cmd 0 8
  if left = 0xFF#8 then some .output
  else if left = 0x00#8 then some .input
  else if left ∈ p.sioReset then some .resetInterface
  else if left ∈ p.sioTest then some .testInterface
  else none

/-- What a direct output does at the test support equipment: the typewriter modes and the tape (R535). -/
def Tse.command (p : Params) (t : Tse) (cmd : Half) : Tse :=
  if cmd = p.typewriterOutput then { t with typewriter := .output }
  else if cmd = 0xFF62#16 then { t with typewriter := .input }
  else if cmd = 0xFF41#16 then { t with tapeRunning := true }
  else if cmd = 0xFF42#16 then { t with tapeRunning := false }
  else t

/-- Direct output: the command and the low half of general register `r1` go to the channel (R305, R516). -/
def State.directOutput (s : State) (cmd : Half) (r1 : Reg) : State :=
  { s with outbox := .output cmd (s.lo r1) :: s.outbox, tse := s.tse.command s.params cmd }

/-- The word a direct input delivers, with the state after it (R305, R516, R535): a panel register, else the next word the
devices have ready, else any value (log 12). -/
def State.directInput (s : State) (cmd : Half) : Half × State :=
  if cmd = 0x0004#16 then (slice s.tse.panelAddr 8 16, s)
  else if cmd = 0x0005#16 then ((slice s.tse.panelAddr 0 8 : Byte).setWidth 16, s)
  else if cmd = 0x0006#16 then (slice s.tse.panelData 16 16, s)
  else if cmd = 0x0007#16 then (slice s.tse.panelData 0 16, s)
  else match s.deviceWords with
    | w :: r => (w, { s with deviceWords := r })
    | [] => (s.free.setWidth 16, s.draw)

/-- The command of SIO by its form, the checks passed (R305, R516, D15). RESET INTERFACE frees the channel even while a
pending interrupt key holds it, and the key request stays pending: the model's choice (log 42), since D15, R39 and R520 let
the command clear the busy condition, and D29, R508 and R557 hold the channel until the key interruption is taken. That it
stops neither an advancing tape nor the typewriter mode, and drops no pending request and no device word, is the model's
choice (log 49), and so is that the halfword at 66 keeps the address of a burst that it halts (log 51). -/
def State.startIo (s : State) (r1 r3 : Reg) (cmd : Half) : Result :=
  match commandForm s.params cmd with
  | none => .refused .sioCommandUndefined
  | some .resetInterface =>
    .next ({ s with chanBusy := false, burst := none, outbox := .resetInterface :: s.outbox }.setCc 0)
  | some .testInterface =>
    .next ({ s with outbox := .testInterface :: s.outbox }.setCc (if s.chanBusy then 1 else 0))
  | some .output => .next (if s.chanBusy then s.setCc 1 else (s.directOutput cmd r1).setCc 0)
  | some .input =>
    .next (
      if s.chanBusy then s.setCc 1
      else
        let x := { s with outbox := .input cmd (s.lo r1) :: s.outbox }.directInput cmd
        (x.2.setLo r3 x.1).setCc 0)

/-- R305 START INPUT OUTPUT: addressing, halfword boundary, privilege, then the command. -/
def execSio (r1 r3 b2 : Reg) (d2 : Disp) (s : State) : Result :=
  let a := s.ea b2 d2
  afterControlCheck s a (needSupervisor s (
    let x := s.readHalf a
    x.2.startIo r1 r3 x.1))

/-! ## TIMER READ AND SET -/

/-- What TMRS delivers: the interval timer or the clock (R306). -/
def State.timerValue (s : State) (timer : Bool) : Word := if timer then s.intimer.setWidth 32 else s.rtc

/-- The interval timer or the clock set from the operand at `a`, the clock halfword by halfword (R306). -/
def State.setTimer (s : State) (timer : Bool) (a : Addr) : State :=
  let x := s.readHalf a
  if timer then { x.2 with intimer := x.1 }
  else
    let y := x.2.readHalf (a + 2#20)
    { y.2 with rtc := x.1 ++ y.1 }

/-- R306 TIMER READ AND SET. A function code above 3 is refused before any check (D18; log 21). R3 is the destination, as
R306 says, although R112 lists it among the ignored fields (log 45). -/
def execTmrs (fn : BitVec 4) (r3 b2 : Reg) (d2 : Disp) (s : State) : Result :=
  let a := s.ea b2 d2
  let set := fn.getLsbD 1
  let timer := fn.getLsbD 0
  if 3 < fn.toNat then .refused .tmrsFunctionUndefined
  else afterControlCheck s a (
    if set && s.psw.p then raise .privileged s
    else if set && !timer && !s.available (a + 2#20) then raise .addressing s
    else .next ((if set then s.setTimer timer a else s).setReg r3 (s.timerValue timer)))

end Sys2Proof.Machine
end

