-- ==== Sys2Proof/Machine/Execute.lean ====
section
/-! DEFINITION.
EXECUTE (R270, R275, R276 of spec/43_branching.md): the subject instruction at the branch address, its second byte OR'ed
with a register, has the meaning it has in the normal instruction stream; a base field of 0 in it names general register
0, the length code stays 2 and the instruction address is that of the instruction after EXECUTE.
-/
namespace Sys2Proof.Machine

/-- The length in halfwords of the instruction whose operation code is `op` on this installation (R107). -/
def State.lengthOf (s : State) (op : Byte) : Nat := instrLength s.params.opts.short op

/-- An instruction of `n` halfwords at `a` lies in the last fullword of an installed storage that is not the whole address
space, or is followed by an unavailable location (R561, D33). -/
def State.inLastFullword (s : State) (a : Addr) (n : Nat) : Bool :=
  decide (s.params.memSize < 2 ^ 20) && decide (s.params.memSize < a.toNat + 2 * n + 4)

/-- The meaning of a subject instruction: its own, but another EXECUTE is the execute exception (R270, R483). -/
def execSubject (i : Instr) (s : State) : Result :=
  match i with
  | .spm r1 => execSpm r1 s
  | .balr r1 r2 => execBalr r1 r2 s
  | .bctr r1 r2 => execBctr r1 r2 s
  | .bcr m1 r2 => execBcr m1 r2 s
  | .ssk r1 r2 => execSsk r1 r2 s
  | .svc code => execSvc code s
  | .lfsr r1 r2 => execLfsr r1 r2 s
  | .lpr r1 r2 => execLpr r1 r2 s
  | .lnr r1 r2 => execLnr r1 r2 s
  | .ltr r1 r2 => execLtr r1 r2 s
  | .lcr r1 r2 => execLcr r1 r2 s
  | .nr r1 r2 => execNr r1 r2 s
  | .clr r1 r2 => execClr r1 r2 s
  | .or r1 r2 => execOr r1 r2 s
  | .xr r1 r2 => execXr r1 r2 s
  | .lr r1 r2 => execLr r1 r2 s
  | .cr r1 r2 => execCr r1 r2 s
  | .ar r1 r2 => execAr r1 r2 s
  | .sr r1 r2 => execSr r1 r2 s
  | .mr r1 r2 => execMr r1 r2 s
  | .dr r1 r2 => execDr r1 r2 s
  | .alr r1 r2 => execAlr r1 r2 s
  | .slr r1 r2 => execSlr r1 r2 s
  | .lcdr r1 r2 => execLcdr r1 r2 s
  | .ldr r1 r2 => execLdr r1 r2 s
  | .cdr r1 r2 => execCdr r1 r2 s
  | .adr r1 r2 => execAdr r1 r2 s
  | .sdr r1 r2 => execSdr r1 r2 s
  | .lper r1 r2 => execLper r1 r2 s
  | .lner r1 r2 => execLner r1 r2 s
  | .lter r1 r2 => execLter r1 r2 s
  | .lcer r1 r2 => execLcer r1 r2 s
  | .her r1 r2 => execHer r1 r2 s
  | .ler r1 r2 => execLer r1 r2 s
  | .cer r1 r2 => execCer r1 r2 s
  | .aer r1 r2 => execAer r1 r2 s
  | .ser r1 r2 => execSer r1 r2 s
  | .mer r1 r2 => execMer r1 r2 s
  | .der r1 r2 => execDer r1 r2 s
  | .aur r1 r2 => execAur r1 r2 s
  | .sur r1 r2 => execSur r1 r2 s
  | .sth r1 x2 b2 d2 => execSth r1 x2 b2 d2 s
  | .la r1 x2 b2 d2 => execLa r1 x2 b2 d2 s
  | .stc r1 x2 b2 d2 => execStc r1 x2 b2 d2 s
  | .ic r1 x2 b2 d2 => execIc r1 x2 b2 d2 s
  | .ex _ _ _ _ => raise .execute s
  | .bal r1 x2 b2 d2 => execBal r1 x2 b2 d2 s
  | .bct r1 x2 b2 d2 => execBct r1 x2 b2 d2 s
  | .bc m1 x2 b2 d2 => execBc m1 x2 b2 d2 s
  | .lh r1 x2 b2 d2 => execLh r1 x2 b2 d2 s
  | .ch r1 x2 b2 d2 => execCh r1 x2 b2 d2 s
  | .ah r1 x2 b2 d2 => execAh r1 x2 b2 d2 s
  | .sh r1 x2 b2 d2 => execSh r1 x2 b2 d2 s
  | .mh r1 x2 b2 d2 => execMh r1 x2 b2 d2 s
  | .ds r1 x2 b2 d2 => execDs r1 x2 b2 d2 s
  | .cvd r1 x2 b2 d2 => execCvd r1 x2 b2 d2 s
  | .cvb r1 x2 b2 d2 => execCvb r1 x2 b2 d2 s
  | .st r1 x2 b2 d2 => execSt r1 x2 b2 d2 s
  | .las r1 x2 b2 d2 => execLas r1 x2 b2 d2 s
  | .lts r1 x2 b2 d2 => execLts r1 x2 b2 d2 s
  | .as r1 x2 b2 d2 => execAs r1 x2 b2 d2 s
  | .n r1 x2 b2 d2 => execN r1 x2 b2 d2 s
  | .cl r1 x2 b2 d2 => execCl r1 x2 b2 d2 s
  | .o r1 x2 b2 d2 => execO r1 x2 b2 d2 s
  | .x r1 x2 b2 d2 => execX r1 x2 b2 d2 s
  | .l r1 x2 b2 d2 => execL r1 x2 b2 d2 s
  | .c r1 x2 b2 d2 => execC r1 x2 b2 d2 s
  | .a r1 x2 b2 d2 => execA r1 x2 b2 d2 s
  | .s r1 x2 b2 d2 => execS r1 x2 b2 d2 s
  | .m r1 x2 b2 d2 => execM r1 x2 b2 d2 s
  | .d r1 x2 b2 d2 => execD r1 x2 b2 d2 s
  | .al r1 x2 b2 d2 => execAl r1 x2 b2 d2 s
  | .sl r1 x2 b2 d2 => execSl r1 x2 b2 d2 s
  | .std r1 x2 b2 d2 => execStd r1 x2 b2 d2 s
  | .cs r1 x2 b2 d2 => execCs r1 x2 b2 d2 s
  | .lt r1 x2 b2 d2 => execLt r1 x2 b2 d2 s
  | .xs r1 x2 b2 d2 => execXs r1 x2 b2 d2 s
  | .ns r1 x2 b2 d2 => execNs r1 x2 b2 d2 s
  | .cls r1 x2 b2 d2 => execCls r1 x2 b2 d2 s
  | .os r1 x2 b2 d2 => execOs r1 x2 b2 d2 s
  | .ld r1 x2 b2 d2 => execLd r1 x2 b2 d2 s
  | .cd r1 x2 b2 d2 => execCd r1 x2 b2 d2 s
  | .ad r1 x2 b2 d2 => execAd r1 x2 b2 d2 s
  | .sd r1 x2 b2 d2 => execSd r1 x2 b2 d2 s
  | .ste r1 x2 b2 d2 => execSte r1 x2 b2 d2 s
  | .ms r1 x2 b2 d2 => execMs r1 x2 b2 d2 s
  | .ss r1 x2 b2 d2 => execSs r1 x2 b2 d2 s
  | .bu x2 b2 d2 => execBu x2 b2 d2 s
  | .ls r1 x2 b2 d2 => execLs r1 x2 b2 d2 s
  | .tb r1 x2 b2 d2 => execTb r1 x2 b2 d2 s
  | .le r1 x2 b2 d2 => execLe r1 x2 b2 d2 s
  | .ce r1 x2 b2 d2 => execCe r1 x2 b2 d2 s
  | .ae r1 x2 b2 d2 => execAe r1 x2 b2 d2 s
  | .se r1 x2 b2 d2 => execSe r1 x2 b2 d2 s
  | .me r1 x2 b2 d2 => execMe r1 x2 b2 d2 s
  | .de r1 x2 b2 d2 => execDe r1 x2 b2 d2 s
  | .au r1 x2 b2 d2 => execAu r1 x2 b2 d2 s
  | .su r1 x2 b2 d2 => execSu r1 x2 b2 d2 s
  | .ssm b1 d1 => execSsm b1 d1 s
  | .lpsw b1 d1 => execLpsw b1 d1 s
  | .diagnose i2 b1 d1 => execDiagnose i2 b1 d1 s
  | .bxh r1 r3 b2 d2 => execBxh r1 r3 b2 d2 s
  | .bxle r1 r3 b2 d2 => execBxle r1 r3 b2 d2 s
  | .srl r1 b2 d2 => execSrl r1 b2 d2 s
  | .sll r1 b2 d2 => execSll r1 b2 d2 s
  | .sra r1 b2 d2 => execSra r1 b2 d2 s
  | .sla r1 b2 d2 => execSla r1 b2 d2 s
  | .srdl r1 b2 d2 => execSrdl r1 b2 d2 s
  | .sldl r1 b2 d2 => execSldl r1 b2 d2 s
  | .srda r1 b2 d2 => execSrda r1 b2 d2 s
  | .slda r1 b2 d2 => execSlda r1 b2 d2 s
  | .stm r1 r3 b2 d2 => execStm r1 r3 b2 d2 s
  | .tm i2 b1 d1 => execTm i2 b1 d1 s
  | .mvi i2 b1 d1 => execMvi i2 b1 d1 s
  | .ts b1 d1 => execTs b1 d1 s
  | .ni i2 b1 d1 => execNi i2 b1 d1 s
  | .cli i2 b1 d1 => execCli i2 b1 d1 s
  | .oi i2 b1 d1 => execOi i2 b1 d1 s
  | .xi i2 b1 d1 => execXi i2 b1 d1 s
  | .lm r1 r3 b2 d2 => execLm r1 r3 b2 d2 s
  | .srls r1 b2 d2 => execSrls r1 b2 d2 s
  | .slls r1 b2 d2 => execSlls r1 b2 d2 s
  | .sras r1 b2 d2 => execSras r1 b2 d2 s
  | .slas r1 b2 d2 => execSlas r1 b2 d2 s
  | .tmrs fn r3 b2 d2 => execTmrs fn r3 b2 d2 s
  | .sio r1 r3 b2 d2 => execSio r1 r3 b2 d2 s
  | .osi r1 i2 => execOsi r1 i2 s
  | .xsi r1 i2 => execXsi r1 i2 s
  | .lsi r1 i2 => execLsi r1 i2 s
  | .csi r1 i2 => execCsi r1 i2 s
  | .asi r1 i2 => execAsi r1 i2 s
  | .ssi r1 i2 => execSsi r1 i2 s
  | .tbi r1 i2 => execTbi r1 i2 s
  | .dsi r1 i2 => execDsi r1 i2 s
  | .msi r1 i2 => execMsi r1 i2 s
  | .nsi r1 i2 => execNsi r1 i2 s
  | .clsi r1 i2 => execClsi r1 i2 s
  | .lhi r1 i2 => execLhi r1 i2 s
  | .chi r1 i2 => execChi r1 i2 s
  | .ahi r1 i2 => execAhi r1 i2 s
  | .shi r1 i2 => execShi r1 i2 s
  | .mhi r1 i2 => execMhi r1 i2 s
  | .lpsr r1 r2 => execLpsr r1 r2 s
  | .lnsr r1 r2 => execLnsr r1 r2 s
  | .ltsr r1 r2 => execLtsr r1 r2 s
  | .lcsr r1 r2 => execLcsr r1 r2 s
  | .nsr r1 r2 => execNsr r1 r2 s
  | .clsr r1 r2 => execClsr r1 r2 s
  | .osr r1 r2 => execOsr r1 r2 s
  | .xsr r1 r2 => execXsr r1 r2 s
  | .lsr r1 r2 => execLsr r1 r2 s
  | .csr r1 r2 => execCsr r1 r2 s
  | .asr r1 r2 => execAsr r1 r2 s
  | .ssr r1 r2 => execSsr r1 r2 s
  | .msr r1 r2 => execMsr r1 r2 s
  | .dsr r1 r2 => execDsr r1 r2 s
  | .bur r2 => execBur r2 s
  | .nrm r1 r2 => execNrm r1 r2 s
  | .lhr r1 r2 => execLhr r1 r2 s
  | .mvn l b1 d1 b2 d2 => execMvn l b1 d1 b2 d2 s
  | .mvc l b1 d1 b2 d2 => execMvc l b1 d1 b2 d2 s
  | .mvz l b1 d1 b2 d2 => execMvz l b1 d1 b2 d2 s
  | .nc l b1 d1 b2 d2 => execNc l b1 d1 b2 d2 s
  | .clc l b1 d1 b2 d2 => execClc l b1 d1 b2 d2 s
  | .oc l b1 d1 b2 d2 => execOc l b1 d1 b2 d2 s
  | .xc l b1 d1 b2 d2 => execXc l b1 d1 b2 d2 s
  | .tr l b1 d1 b2 d2 => execTr l b1 d1 b2 d2 s
  | .trt l b1 d1 b2 d2 => execTrt l b1 d1 b2 d2 s
  | .mvo l1 l2 b1 d1 b2 d2 => execMvo l1 l2 b1 d1 b2 d2 s
  | .pack l1 l2 b1 d1 b2 d2 => execPack l1 l2 b1 d1 b2 d2 s
  | .unpk l1 l2 b1 d1 b2 d2 => execUnpk l1 l2 b1 d1 b2 d2 s

/-- The subject instruction's bytes: the second one OR'ed with bits 24-31 of general register R1, unless R1 is 0 (R270). -/
def State.modifySubject (s : State) (r1 : Reg) : List Byte → List Byte
  | op :: b :: r => op :: (if r1 = 0#4 then b else b ||| slice (s.reg r1) 24 8) :: r
  | bs => bs

/-- The state after a subject instruction is again outside EXECUTE. -/
def leaveExecute : Result → Result
  | .next t => .next { t with inExecute := false }
  | .fault r => .fault r
  | .refused r => .refused r

/-- The subject instruction at `a` in a state that is executing EXECUTE: the fetch checks of its halfwords, the operation
exception, the refusal of R561, then its meaning or the execute exception (R270, R275). That an operation code that is not
assigned is told before R561 is the model's choice (log 18). -/
def State.runSubject (s : State) (r1 : Reg) (a : Addr) : Result :=
  let n := s.lengthOf (s.access.byte a)
  let x := s.readHalves a n
  if !s.available a then raise .addressing s
  else if a.getLsbD 0 then raise .specification s
  else if !s.availableN a (2 * n) then raise .addressing s.access
  else match decode s.params.opts (s.modifySubject r1 x.1) with
    | .error _ => raise .operation x.2
    | .ok (i, _) =>
      if s.inLastFullword a n then .refused .lastFullword
      else leaveExecute (execSubject i { x.2 with inExecute := true })

/-- R270 EXECUTE. Its own address is formed in the normal way; every length code it leads to is 2. -/
def execEx (r1 x2 b2 : Reg) (d2 : Disp) (s : State) : Result :=
  let t := { s with inExecute := false, ilc := 2#2 }
  t.runSubject r1 (t.eax x2 b2 d2)

end Sys2Proof.Machine
end

