-- ==== Sys2Proof/Machine/Fetch.lean ====
section
/-! DEFINITION.
Fetching one instruction with the exceptions of the fetch in their order (R113, R478), the hazard of the last fullword
(R561), and placing an instruction image where the next fetch finds it.
-/
namespace Sys2Proof.Machine

/-- The state once an instruction of `n` halfwords has been fetched at the instruction address: the address is updated
modulo 2^20 and the length recorded (R33, R113). -/
def State.advance (s : State) (n : Nat) : State :=
  { s with psw := { s.psw with ia := s.psw.ia + BitVec.ofNat 20 (2 * n) }, ilc := BitVec.ofNat 2 n, inExecute := false }

/-- Which of 1, 2, 3 a free value names: the length recorded when no operation code could be fetched (R478 step 1, D26). -/
def anyLength (v : BitVec 64) : Nat := v.toNat % 3 + 1

/-- What the fetch at the instruction address gives: an instruction of `n` halfwords, the program exception it meets with
the length to record, or a refusal. -/
inductive Fetched where
  | instr (i : Instr) (n : Nat)
  | trap (e : ProgEx) (n : Nat)
  | unavailable
  | refuse (r : Refusal)
  deriving DecidableEq, Repr

/-- The fetch (R478) and the state after it: the availability of the first halfword, then PSW bits 8-11 and the odd
address, then the further halfwords, then the operation code; an instruction that would run is refused where R561 leaves it
undefined (log 18). Each halfword is an access of its own (D8). -/
def State.fetch (s : State) : Fetched × State :=
  let ia := s.psw.ia
  let n := s.lengthOf (s.access.byte ia)
  let x := s.readHalves ia n
  if !s.available ia then (.unavailable, s)
  else if s.psw.key ≠ 0#4 ∨ ia.getLsbD 0 = true then (.trap .specification n, s.access)
  else if !s.availableN ia (2 * n) then (.trap .addressing n, s.access)
  else match decode s.params.opts x.1 with
    | .error _ => (.trap .operation n, x.2)
    | .ok (i, _) => (if s.inLastFullword ia n then .refuse .lastFullword else .instr i n, x.2)

/-- Fetch and execute one instruction (R113, R477). -/
def State.runInstr (s : State) : Result :=
  match s.fetch with
  | (.instr i n, t) => exec i (t.advance n)
  | (.trap e n, t) => raise e (t.advance n)
  | (.unavailable, t) => raise .addressing (t.draw.advance (anyLength t.free))
  | (.refuse r, _) => .refused r

/-- The state with a list of bytes stored at the instruction address and everything else such that the next step fetches
there: operating and running, no request pending, no move of another agent before the CPU's and no DMA access inside it, a
zero key field, and an instruction address that can be fetched. -/
def State.placeAtIa (s : State) (bs : List Byte) : State :=
  let fetchable := !s.psw.ia.getLsbD 0 && s.availableN s.psw.ia 6 && !s.inLastFullword s.psw.ia 3
  let psw := { s.psw with key := 0#4, w := false, ia := if fetchable then s.psw.ia else 0#20 }
  { s with psw := psw, mode := .operating, env := [], dma := [], pendTimer := false, pendKey := false, pendIo := none,
           inExecute := false }.setBytes psw.ia bs

end Sys2Proof.Machine
end

