-- ==== Sys2Proof/Machine/Cycle.lean ====
section
/-! DEFINITION.
The machine cycle (R477): what happens at one instruction boundary.
-/
namespace Sys2Proof.Machine

/-- Take an interruption whose length code is not predictable (R473, D25). -/
def State.interruptAsync (s : State) (c : IntClass) (code : Half) : State :=
  s.draw.interrupt c code (s.free.setWidth 2)

/-- The CPU's part of the cycle (R477): the timer, then the request the channel holds, then an instruction unless the PSW
says wait. Each interruption is a cycle of its own. An I/O request that was presented before a device tied up the channel is
taken all the same, as R477 and R500 have it, although R520 lets none but the holder's occur: the model's choice
(log 46). The key interruption frees the channel (R477) even where a device or a burst has tied it up after a RESET INTERFACE
under the pending key, and leaves the burst in progress: the model's choice (log 50). -/
def State.cpuCycle (s : State) : Result :=
  match s.mode with
  | .hung => .next s
  | .softStop => .next s
  | .operating =>
    if s.pendTimer && s.maskTimer then .next ({ s with pendTimer := false }.interruptAsync .external 0x0080#16)
    else if s.maskIo && s.pendKey then
      .next ({ s with pendKey := false, chanBusy := false }.interruptAsync .external 0x0040#16)
    else match s.maskIo, s.pendIo with
      | true, some w => .next ({ s with pendIo := none }.interruptAsync .inputOutput w)
      | _, _ => if s.psw.w then .next s else s.runInstr

/-- One move of an agent. DMA acts in soft stop too, at any time as R517 says, although R551 keeps storage as it is there but
for the TSE functions: the model's choice (log 57). -/
def Move.act (m : Move) (s : State) : Result :=
  match m with
  | .cpu => s.cpuCycle
  | .tick => .next s.tick
  | .request w p => s.request w p
  | .busy b => .next (s.unlessHung (if b then { s with chanBusy := true } else s.release))
  | .deviceWord w => .next (s.unlessHung { s with deviceWords := s.deviceWords ++ [w] })
  | .panel a d => .next { s with tse := { s.tse with panelAddr := a, panelData := d } }
  | .dma x => .next (s.unlessHung (s.dmaAccess x))
  | .parityError d => .next (s.parityError d)
  | .systemReset x => .next (s.systemReset x)

/-- What happens at a boundary: the next move of the environment, or the CPU's when none is left (R477; log 11). -/
def State.boundary (s : State) : Result :=
  if s.params.wf then
    match s.env with
    | [] => s.cpuCycle
    | m :: r => m.act { s with env := r }
  else .fault .impossibleInstallation

end Sys2Proof.Machine
end

