-- ==== Sys2Proof/Machine/Step.lean ====
section
/-! DEFINITION.
One step of the machine, and placing an instruction where the next step runs it.
-/
namespace Sys2Proof.Machine

/-- One step: one boundary of the machine cycle (R477). -/
def step (s : State) : Host.Outcome State Fault Refusal := s.boundary

/-- The state with an instruction image, zero bytes after it, where the next step fetches it (log 13). -/
def State.withFetchWord (s : State) (nbits w : Nat) : State := s.placeAtIa (imageBytes6 nbits w)

end Sys2Proof.Machine
end

