-- ==== Sys2Proof/Safety.lean ====
section
/-! DEFINITION.
The terms in which statements about the machine are made: the invariant of a boundary, what an instruction may read or
store, what it leaves unchanged, and how it can end.
-/
namespace Sys2Proof.Machine

/-! ## States -/

/-- What holds of the machine at every boundary: an installation that can exist (D1, D15, D30); storage and keys in their
one canonical form, with nothing listed outside installed storage (R64, R72); no subject of EXECUTE under way (R276); and
never both an interrupt key and an I/O request on the one channel (R515). -/
abbrev State.Inv (s : State) : Prop :=
  s.params.wf = true ∧ Memory.wf s.mem ∧ Keys.wf s.keys ∧
  (∀ c ∈ s.mem, c.1 < s.params.memSize) ∧ (∀ c ∈ s.keys, c.1 < s.params.memSize / 1024) ∧
  s.inExecute = false ∧ (s.pendKey = true → s.pendIo = none)

/-- The CPU is the agent that acts at this boundary, it is running, and no request interrupts it: an instruction is
fetched (R477). -/
def State.Fetches (s : State) : Prop :=
  s.params.wf = true ∧ s.env = [] ∧ s.mode = .operating ∧ s.psw.w = false ∧
  ¬(s.pendTimer = true ∧ s.maskTimer = true) ∧ ¬(s.maskIo = true ∧ (s.pendKey = true ∨ s.pendIo ≠ none))

/-- `n` bytes from `a` on, modulo 2^20, all in installed storage (R65, R67). -/
def State.Installed (s : State) (a : Addr) (n : Nat) : Prop :=
  ∀ k, k < n → (a + BitVec.ofNat 20 k).toNat < s.params.memSize

/-- A storage operand that is read without an exception: installed and aligned (R70). -/
def State.Readable (s : State) (a : Addr) (n align : Nat) : Prop := s.Installed a n ∧ a.toNat % align = 0

/-- No byte of the field lies in a block that is protected against the CPU (R73). -/
def State.Unprotected (s : State) (a : Addr) (n : Nat) : Prop :=
  ∀ k, k < n → s.cpuProtected (a + BitVec.ofNat 20 k) = false

/-- A storage operand that is stored without an exception (R71). -/
def State.Writable (s : State) (a : Addr) (n align : Nat) : Prop := s.Readable a n align ∧ s.Unprotected a n

/-- No DMA access that falls into the coming instructions stores into the halfword of the byte at `x` (D8). -/
def State.DmaSpares (s : State) (x : Addr) : Prop :=
  ∀ xs ∈ s.dma, ∀ h w, DmaAccess.write h w ∈ xs → x ≠ halfAddr h ∧ x ≠ halfAddr h + 1#20

/-! ## What is unchanged -/

/-- Every field but the general and floating-point registers, the PSW and storage is unchanged: the installation, the
keys, both timers, every pending request, the channel, the mode, the test support equipment, the recorded length, the
words from and to devices, the DMA accesses to come and what DMA has read, and the free values drawn. -/
def SameControl (s t : State) : Prop := t = { s with gr := t.gr, fpr := t.fpr, psw := t.psw, mem := t.mem }

/-- Every byte of storage reads as before. -/
def SameStorage (s t : State) : Prop := ∀ x : Addr, t.byte x = s.byte x

/-- Every byte of storage outside the `n` bytes from `a` on reads as before. -/
def SameStorageBut (a : Addr) (n : Nat) (s t : State) : Prop :=
  ∀ x : Addr, (∀ k, k < n → x ≠ a + BitVec.ofNat 20 k) → t.byte x = s.byte x

/-- Every general register but those listed is unchanged. -/
def SameGrBut (rs : List Reg) (s t : State) : Prop := ∀ q : Reg, q ∉ rs → t.reg q = s.reg q

/-- Every floating-point register but `r` is unchanged. -/
def SameFpBut (r : Reg) (s t : State) : Prop := ∀ q : Reg, fpReg q = true → q ≠ r → t.fp q = s.fp q

/-! ## Results -/

/-- `t` is `s` with the condition code `c` and nothing else changed. -/
def CcResult (s : State) (c : Cc) (t : State) : Prop :=
  t.psw = { s.psw with cc := c } ∧ SameGrBut [] s t ∧ t.fpr = s.fpr ∧ SameStorage s t ∧ SameControl s t

/-- `t` is `s` with `v` in general register `r`, the condition code `c`, and nothing else changed. -/
def RegResult (s : State) (r : Reg) (v : Word) (c : Cc) (t : State) : Prop :=
  t.reg r = v ∧ t.psw = { s.psw with cc := c } ∧ SameGrBut [r] s t ∧ t.fpr = s.fpr ∧ SameStorage s t ∧ SameControl s t

/-- `t` is `s` with `v` in bits 16-31 of general register `r`, its bits 0-15 as before, the condition code `c`, and nothing
else changed. -/
def LoResult (s : State) (r : Reg) (v : Half) (c : Cc) (t : State) : Prop :=
  RegResult s r ((s.reg r).extractLsb' 16 16 ++ v) c t

/-- `t` is `s` with `v` in the register pair `r`, the condition code `c`, and nothing else changed. -/
def PairResult (s : State) (r : Reg) (v : Dword) (c : Cc) (t : State) : Prop :=
  t.reg r = v.extractLsb' 32 32 ∧ t.reg (r + 1#4) = v.extractLsb' 0 32 ∧ t.psw = { s.psw with cc := c } ∧
  SameGrBut [r, r + 1#4] s t ∧ t.fpr = s.fpr ∧ SameStorage s t ∧ SameControl s t

/-- `t` is `s` with `v` in floating-point register `r`, the condition code `c`, and nothing else changed. -/
def FprResult (s : State) (r : Reg) (v : Word) (c : Cc) (t : State) : Prop :=
  t.fp r = v ∧ t.psw = { s.psw with cc := c } ∧ SameFpBut r s t ∧ SameGrBut [] s t ∧ SameStorage s t ∧ SameControl s t

/-- `t` is `s` with the bytes `bs` from `a` on, the condition code `c`, and nothing else changed. -/
def StoreResult (s : State) (a : Addr) (bs : List Byte) (c : Cc) (t : State) : Prop :=
  t.bytes a bs.length = bs ∧ t.psw = { s.psw with cc := c } ∧ SameStorageBut a bs.length s t ∧ SameGrBut [] s t ∧
  t.fpr = s.fpr ∧ SameControl s t

/-- `t` is `s` with the instruction address `ia`, and `v` in general register `r` if there is one, and nothing else
changed. -/
def BranchResult (s : State) (w : Option (Reg × Word)) (ia : Addr) (t : State) : Prop :=
  (∀ x, w = some x → t.reg x.1 = x.2) ∧ t.psw = { s.psw with ia := ia } ∧ SameGrBut (w.toList.map (·.1)) s t ∧
  t.fpr = s.fpr ∧ SameStorage s t ∧ SameControl s t

/-! ## Endings -/

/-- The instruction runs to its end, in a state with the property. -/
def Completes (i : Instr) (s : State) (p : State → Prop) : Prop := ∃ t, exec i s = .next t ∧ p t

/-- The instruction ends in the program interruption of `e`, taken in a state with the property (R470, R480). -/
def TrapsAfter (e : ProgEx) (i : Instr) (s : State) (p : State → Prop) : Prop := ∃ t, exec i s = raise e t ∧ p t

/-- The instruction is suppressed: the program interruption of `e` is taken with nothing else changed (R480). -/
def Suppressed (e : ProgEx) (i : Instr) (s : State) : Prop := exec i s = raise e s

/-! ## Exact arithmetic -/

/-- The integer is representable as a `w`-bit two's complement number (R46). -/
def InRange (w : Nat) (x : Int) : Prop := -(2 ^ (w - 1)) ≤ x ∧ x < 2 ^ (w - 1)

/-- The condition code of an exact result: zero, less than zero, greater than zero. -/
def ccOfSign (x : Int) : Cc := if x = 0 then 0 else if x < 0 then 1 else 2

/-- The condition code of a comparison: equal, first operand low, first operand high. -/
def ccOfOrder (x y : Int) : Cc := ccOfSign (x - y)

/-- The end of an arithmetic instruction whose exact result is `x`: without overflow its sign sets the condition code; an
overflow sets it to 3 and, if PSW bit 36 is one, is a program interruption after the result is in place (R144, R488). -/
def EndsArith (i : Instr) (s : State) (w : Nat) (x : Int) (p : Cc → State → Prop) : Prop :=
  (InRange w x → Completes i s (p (ccOfSign x))) ∧
  (¬InRange w x → s.maskOverflow = false → Completes i s (p 3)) ∧
  (¬InRange w x → s.maskOverflow = true → TrapsAfter .fixedOverflow i s (p 3))

/-- The decimal digit code of weight 10^k in a packed decimal double word (R185). -/
def decimalDigit (w : Dword) (k : Nat) : Nat := (w.extractLsb' (4 * (k + 1)) 4).toNat

/-- The magnitude of a packed decimal double word (R185). -/
def decimalMagnitude (w : Dword) : Nat := ((List.range 15).map fun k => decimalDigit w k * 10 ^ k).sum

/-- The sign code of a packed decimal double word (R185). -/
def decimalSign (w : Dword) : BitVec 4 := w.extractLsb' 0 4

/-- The number a packed decimal double word stands for: sign codes 11 and 13 are minus (R185). -/
def decimalNumber (w : Dword) : Int :=
  if decimalSign w = 11#4 ∨ decimalSign w = 13#4 then -(decimalMagnitude w : Int) else decimalMagnitude w

/-- Every digit code is a digit and the sign code a sign (R185). -/
def DecimalValid (w : Dword) : Prop := (∀ k, k < 15 → decimalDigit w k ≤ 9) ∧ 10 ≤ (decimalSign w).toNat

/-! ## Floating-point numbers -/

/-- Sixteen to an integer power. -/
def pow16 (n : Int) : Rat := (16 : Rat) ^ n

/-- One or minus one. -/
def signFactor (neg : Bool) : Rat := if neg then -1 else 1

/-- The number a floating-point word stands for: a fraction of six hexadecimal digits times the power of sixteen whose
exponent is the characteristic less 64 (R421). -/
def fpNumber (v : Word) : Rat :=
  signFactor v.msb * ((v.extractLsb' 0 24).toNat : Rat) * pow16 ((v.extractLsb' 24 7).toNat - 64 - 6)

/-- The weight of the last fraction digit of a floating-point word. -/
def fpUlp (v : Word) : Rat := pow16 ((v.extractLsb' 24 7).toNat - 64 - 6)

/-- The leading hexadecimal digit of the fraction is not zero (R424). -/
def FpNormalized (v : Word) : Prop := v.extractLsb' 20 4 ≠ 0#4

/-- The word is `x` cut off after its last fraction digit, toward zero, with the sign of `x` (R424). -/
def FpCuts (v : Word) (x : Rat) : Prop :=
  |fpNumber v| ≤ |x| ∧ |x| < |fpNumber v| + fpUlp v ∧ (v.msb = true ↔ x < 0)

/-- The magnitudes that a normalized floating-point word with a characteristic of 0 to 127 can have. -/
def FpFits (x : Rat) : Prop := pow16 (-65) ≤ |x| ∧ |x| < pow16 63

/-- The end of a normalizing operation whose exact result `x` is not zero, `p v` saying that `v` is the result: a normalized
word that is `x` cut off; beyond the largest magnitude the same for `x` divided by 16^128 and an exponent-overflow
interruption; below the smallest for `x` times 16^128 and an exponent-underflow interruption, or a true zero where PSW bit
38 is zero (R490, R491). -/
def EndsFp (i : Instr) (s : State) (x : Rat) (p : Word → State → Prop) : Prop :=
  (FpFits x → ∃ v, FpNormalized v ∧ FpCuts v x ∧ Completes i s (p v)) ∧
  (pow16 63 ≤ |x| → ∃ v, FpNormalized v ∧ FpCuts v (x / pow16 128) ∧ TrapsAfter .exponentOverflow i s (p v)) ∧
  (x ≠ 0 → |x| < pow16 (-65) → s.maskUnderflow = true →
    ∃ v, FpNormalized v ∧ FpCuts v (x * pow16 128) ∧ TrapsAfter .exponentUnderflow i s (p v)) ∧
  (x ≠ 0 → |x| < pow16 (-65) → s.maskUnderflow = false → Completes i s (p 0#32))

/-- The characteristic of a floating-point word (R421). -/
def fpChar (v : Word) : Nat := (v.extractLsb' 24 7).toNat

/-- An operand of an addition at the characteristic `c`, not below its own: its fraction moved right digit by digit, one
guard digit kept and the rest dropped (R436). -/
def fpGuarded (c : Nat) (v : Word) : Rat :=
  signFactor v.msb * (((v.extractLsb' 0 24).toNat * 16 / 16 ^ (c - fpChar v) : Nat) : Rat) * pow16 (c - 64 - 7)

/-- The intermediate sum of an addition at the greater characteristic (R436). -/
def fpGuardedSum (a b : Word) : Rat :=
  fpGuarded (max (fpChar a) (fpChar b)) a + fpGuarded (max (fpChar a) (fpChar b)) b

/-- The sign of a rational number as a condition code. -/
def ccOfRat (x : Rat) : Cc := if x = 0 then 0 else if x < 0 then 1 else 2

/-- The end of an addition with nothing significant in its result, of greater characteristic `c`: a true zero, or, where
PSW bit 39 is one, the characteristic with a zero fraction and a significance interruption (R492). -/
def EndsSignificance (i : Instr) (s : State) (r : Reg) (c : Nat) : Prop :=
  (s.maskSignificance = false → Completes i s (FprResult s r 0#32 0)) ∧
  (s.maskSignificance = true →
    TrapsAfter .significance i s (FprResult s r (0#1 ++ BitVec.ofNat 7 c ++ 0#24) 0))

end Sys2Proof.Machine
end

