-- ==== Sys2Proof/Certificates/Slice0/Obligations.lean ====
section
/-! DEFINITION.
The statements for the provers. Bits of a BitVec are numbered from the right in Lean and from the left in the manual: bits
16-31 of a register are `extractLsb' 0 16`. `s.dma = []` says that no DMA access falls into the instruction: what those
accesses do is stated in StepRunsDecodedInstruction, InterruptionSwapsPsws, ProtectedStorageIsKept and DmaObeysItsOwnKey.
-/
open Sys2Proof Sys2Proof.Machine

/-! ## Encoding -/

/-- Decoding an encoded instruction gives it back, whatever bytes follow (R100 to R107, R120; log 35 for the places of the
SI and SS fields). -/
def Obligations.DecodeInvertsEncode : Prop :=
  ∀ (i : Instr) (rest : List Byte), decode Options.all (encode i ++ rest) = .ok (i, rest)

/-- Instructions written out from the formats and operation codes of the spec decode to what they stand for (R101 to R106,
R120; log 35 for the operation code of PACK and the places of the SI and SS fields). -/
def Obligations.DecodesWrittenWords : Prop :=
  decode Options.all [0x1A#8, 0x79#8] = .ok (.ar 7 9, []) ∧
  decode Options.all [0x50#8, 0x3A#8, 0xE1#8, 0x2C#8] = .ok (.st 3 10 14 0x12C#12, []) ∧
  decode Options.all [0x90#8, 0xEC#8, 0xD0#8, 0x0C#8] = .ok (.stm 14 12 13 0x00C#12, []) ∧
  decode Options.all [0x92#8, 0xFF#8, 0x00#8, 0x10#8] = .ok (.mvi 0xFF#8 0 0x010#12, []) ∧
  decode Options.all [0xD2#8, 0x03#8, 0x05#8, 0x00#8, 0x05#8, 0x10#8] = .ok (.mvc 0x03#8 0 0x500#12 0 0x510#12, []) ∧
  decode Options.all [0xF2#8, 0x23#8, 0x01#8, 0x00#8, 0x02#8, 0x00#8] = .ok (.pack 2 3 0 0x100#12 0 0x200#12, []) ∧
  decode Options.all [0xBA#8, 0x30#8, 0xFF#8, 0xFE#8] = .ok (.ahi 3 0xFFFE#16, []) ∧
  decode Options.all [0xCA#8, 0x12#8] = .ok (.asr 1 2, []) ∧
  decode Options.all [0x2A#8, 0x46#8] = .ok (.adr 4 6, []) ∧
  decode Options.all [0x3A#8, 0x02#8] = .ok (.aer 0 2, []) ∧
  decode Options.all [0x0A#8, 0x2A#8] = .ok (.svc 0x2A#8, []) ∧
  decode Options.all [0xA4#8, 0x35#8, 0x09#8, 0x80#8] = .ok (.tmrs 3 5 0 0x980#12, []) ∧
  decode Options.all [0x44#8, 0x10#8, 0x05#8, 0x00#8] = .ok (.ex 1 0 0 0x500#12, [])

/-! ## The machine -/

/-- The machine after system reset, and any machine whose reset button is pressed: soft stop, the interval timer at its
largest value, and no request pending (R550; the last is the spec's own decision D17, log 9). -/
def Obligations.ResetLeavesSoftStop : Prop :=
  (State.reset.mode = .softStop ∧ State.reset.intimer = 0xFFFF#16 ∧ State.reset.pendTimer = false ∧
    State.reset.pendKey = false ∧ State.reset.pendIo = none) ∧
  ∀ (s : State) (x : ResetImage) (r : List Move), s.params.wf = true → s.env = .systemReset x :: r →
    ∃ t, step s = .next t ∧ t.mode = .softStop ∧ t.intimer = 0xFFFF#16 ∧ t.pendTimer = false ∧ t.pendKey = false ∧
      t.pendIo = none

/-- The invariant holds of the machine after reset. -/
def Obligations.ResetMeetsInvariant : Prop := State.reset.Inv

/-- Every step keeps the invariant, and no step changes the installation. -/
def Obligations.StepKeepsInvariant : Prop :=
  ∀ s t : State, s.Inv → step s = .next t → t.Inv ∧ t.params = s.params

/-- Where an instruction can be fetched at the instruction address, a step is its meaning in the state with the instruction
address and the length code updated. Its halfwords are read one after the other, with DMA having access before each; where
DMA does nothing there, they are the bytes in storage and the state after reading them is the state before (R90, R113, R477,
R478; D8). -/
def Obligations.StepRunsDecodedInstruction : Prop :=
  ∀ (s : State) (i : Instr) (rest : List Byte),
    let n := instrLength s.params.opts.short (s.access.byte s.psw.ia)
    let x := s.readHalves s.psw.ia n
    (s.Fetches → s.psw.key = 0#4 → s.psw.ia.getLsbD 0 = false → s.Installed s.psw.ia (2 * n) →
      (s.params.memSize = 2 ^ 20 ∨ s.psw.ia.toNat + 2 * n + 4 ≤ s.params.memSize) →
      decode s.params.opts x.1 = .ok (i, rest) →
      step s = exec i { x.2 with psw := { s.psw with ia := s.psw.ia + BitVec.ofNat 20 (2 * n) }, ilc := BitVec.ofNat 2 n,
                                 inExecute := false }) ∧
    (s.dma = [] → s.access = s ∧ x = (s.bytes s.psw.ia (2 * n), s))

/-- The exceptions of the fetch in their order: an unavailable first halfword, a nonzero key field or an odd address, an
unavailable further halfword, an operation code that is not assigned or whose option is absent; the instruction address is
updated first, by the length that the operation code gives or, where none could be fetched, by one of the lengths 1 to 3; DMA
has access before each halfword that is read (R90, R478; the spec's own decisions, log 40 and log 41, are D26, the place of
the key field in this order and the free length, and D22 of R107, the length of an operation code that is not assigned or
whose option is absent; the model's choice is log 18, that such a code is told before R561). -/
def Obligations.FetchExceptionsInOrder : Prop :=
  ∀ s : State,
    let u := s.access
    let n := instrLength s.params.opts.short (u.byte s.psw.ia)
    let after := fun (v : State) (k : Nat) =>
      { v with psw := { s.psw with ia := s.psw.ia + BitVec.ofNat 20 (2 * k) }, ilc := BitVec.ofNat 2 k, inExecute := false }
    s.Fetches →
    if s.params.memSize ≤ s.psw.ia.toNat then
      ∃ k, 1 ≤ k ∧ k ≤ 3 ∧ step s = raise .addressing (after { s with drawn := s.drawn + 1 } k)
    else if s.psw.key ≠ 0#4 ∨ s.psw.ia.getLsbD 0 = true then step s = raise .specification (after u n)
    else
      (¬s.Installed s.psw.ia (2 * n) → step s = raise .addressing (after u n)) ∧
      (s.Installed s.psw.ia (2 * n) →
        (∀ r ∈ opRows, r.op = u.byte s.psw.ia → r.need.met s.params.opts = false) →
        step s = raise .operation (after (s.readHalves s.psw.ia n).2 n))

/-- Taking an interruption: the old PSW of the class, with the code and the length code, is stored at its location without
a protection check, the key of block 0 becomes 01, the new PSW becomes current unexamined, and nothing else changes; DMA has
access before, not in between (R470, R472, R474; the spec's own decisions, log 41, are D3, that the code and the length code
are no part of the current PSW, D4, that its bits 40-43 are held as loaded and stored back, D6 for the unchecked store and D7
for the key; log 23 for DMA, D8). -/
def Obligations.InterruptionSwapsPsws : Prop :=
  ∀ (s : State) (c : IntClass) (code : Half) (ilc : BitVec 2),
    let u := s.access
    let t := s.interrupt c code ilc
    let b40 := if c = .machineCheck then true else s.psw.b40
    let new := u.dword c.newLoc
    t.dword c.oldLoc =
      s.psw.sm ++ s.psw.key ++ BitVec.ofBool s.psw.a ++ BitVec.ofBool s.psw.m ++ BitVec.ofBool s.psw.w ++
        BitVec.ofBool s.psw.p ++ code ++ ilc ++ s.psw.cc ++ s.psw.pm ++ BitVec.ofBool b40 ++ s.psw.b41 ++ s.psw.ia ∧
    t.psw =
      { sm := new.extractLsb' 56 8, key := new.extractLsb' 52 4, a := new.getLsbD 51, m := new.getLsbD 50,
        w := new.getLsbD 49, p := new.getLsbD 48, cc := new.extractLsb' 28 2, pm := new.extractLsb' 24 4,
        b40 := new.getLsbD 23, b41 := new.extractLsb' 20 3, ia := new.extractLsb' 0 20 } ∧
    t.mode = .operating ∧ t.key 0 = 1#2 ∧ (∀ b, b ≠ 0 → t.key b = s.key b) ∧ SameStorageBut c.oldLoc 8 u t ∧
    t = { u with psw := t.psw, mode := t.mode, keys := t.keys, mem := t.mem } ∧
    c.oldLoc = (match c with | .external => 24 | .supervisorCall => 32 | .program => 40 | .machineCheck => 48
                             | .inputOutput => 56) ∧
    c.newLoc = (match c with | .external => 88 | .supervisorCall => 96 | .program => 104 | .machineCheck => 112
                             | .inputOutput => 120)

/-- A program exception is the interruption of its class with its number as the code and the length of the instruction
last fetched (R471, R473, R480; that protection and addressing exceptions store this length and not 0 is the model's
choice, log 17). -/
def Obligations.ExceptionsHaveTheirCodes : Prop :=
  ∀ (s : State) (e : ProgEx),
    ∃ t, raise e s = .next t ∧ t = s.interrupt .program (BitVec.ofNat 16 (match e with
      | .operation => 1 | .privileged => 2 | .execute => 3 | .protection => 4 | .addressing => 5 | .specification => 6
      | .data => 7 | .fixedOverflow => 8 | .fixedDivide => 9 | .exponentOverflow => 12 | .exponentUnderflow => 13
      | .significance => 14 | .floatDivide => 15)) s.ilc ∧
    t.half 42 = e.code ∧ (t.dword 40).extractLsb' 30 2 = s.ilc ∧ (t.dword 40).extractLsb' 0 20 = s.psw.ia

/-- At a boundary where the CPU acts: a hung or stopped machine stays as it is; a timer request is taken first if system
mask bit 7 is one; then, if system mask bit 0 is one, what the channel holds, the interrupt key or an I/O request; a masked
request stays pending; in the wait state nothing else happens (R475, R476, R477, R500, R505, R512; that the timer comes before
an I/O request is the spec's own completion of the order, D23, log 41, the key before an I/O request is the model's choice,
log 36, and so is an I/O request that is taken while a device holds the channel, log 46, and that the key interruption frees
a channel that a device or a burst has tied up again and leaves the burst, log 50; the length code is free, log 40). -/
def Obligations.BoundaryTakesRequestsInOrder : Prop :=
  ∀ s : State, s.params.wf = true → s.env = [] →
    if s.mode ≠ .operating then step s = .next s
    else if s.pendTimer = true ∧ s.maskTimer = true then
      ∃ v, step s = .next ({ s with pendTimer := false, drawn := s.drawn + 1 }.interrupt .external 0x0080#16 v)
    else if s.maskIo = true ∧ s.pendKey = true then
      ∃ v, step s = .next
        ({ s with pendKey := false, chanBusy := false, drawn := s.drawn + 1 }.interrupt .external 0x0040#16 v)
    else if s.maskIo = true ∧ s.pendIo ≠ none then
      ∃ w v, s.pendIo = some w ∧
        step s = .next ({ s with pendIo := none, drawn := s.drawn + 1 }.interrupt .inputOutput w v)
    else s.psw.w = true → step s = .next s

/-- A timer pulse: nothing while the channel is busy; else the clock counts up, and in operation the interval timer counts
down, its step from zero making a request pending; in soft stop it stands still (R506, R507, R520, R551; that one tick moves
both counters, at a boundary, is the spec's own decision D27, log 41). -/
def Obligations.TickMovesTimers : Prop :=
  ∀ (s : State) (r : List Move), s.params.wf = true → s.env = .tick :: r →
    ∃ t, step s = .next t ∧
      t = { s with env := r, rtc := t.rtc, intimer := t.intimer, pendTimer := t.pendTimer } ∧
      (s.chanBusy = true ∨ s.mode = .hung →
        t.rtc = s.rtc ∧ t.intimer = s.intimer ∧ t.pendTimer = s.pendTimer) ∧
      (s.chanBusy = false → s.mode ≠ .hung → t.rtc.toNat = (s.rtc.toNat + 1) % 2 ^ 32) ∧
      (s.chanBusy = false → s.mode = .softStop → t.intimer = s.intimer ∧ t.pendTimer = s.pendTimer) ∧
      (s.chanBusy = false → s.mode = .operating →
        (s.intimer = 0#16 → t.intimer = 0xFFFF#16 ∧ t.pendTimer = true) ∧
        (s.intimer ≠ 0#16 → t.intimer.toNat + 1 = s.intimer.toNat ∧ t.pendTimer = s.pendTimer))

/-! ## Addresses -/

/-- An effective address is the sum, modulo 2^20, of the low 20 bits of the base, of the index and the displacement, a
field of 0 adding nothing; in the subject of EXECUTE a base field of 0 names general register 0. LOAD ADDRESS forms the sum
in 24 bits, LOAD ADDRESS SHORT in 16, and neither refers to storage (R108, R109, R110, R239, R276, R346; the base field
0 under EXECUTE is the spec's own decision D10, for LAS and LA log 19). -/
def Obligations.AddressesAreSums : Prop :=
  ∀ (s : State) (r1 x2 b2 : Reg) (d2 : Disp),
    let x : Nat := if x2 = 0#4 then 0 else (s.reg x2).toNat
    let b : Nat := if b2 = 0#4 ∧ s.inExecute = false then 0 else (s.reg b2).toNat
    (s.ea b2 d2).toNat = (b + d2.toNat) % 2 ^ 20 ∧
    (s.eax x2 b2 d2).toNat = (x + b + d2.toNat) % 2 ^ 20 ∧
    Completes (.la r1 x2 b2 d2) s (RegResult s r1 (BitVec.ofNat 32 ((x + b + d2.toNat) % 2 ^ 24)) s.psw.cc) ∧
    Completes (.las r1 x2 b2 d2) s (LoResult s r1 (BitVec.ofNat 16 (x + b + d2.toNat)) s.psw.cc)

/-! ## Fixed point -/

/-- LR, LTR, LNR and LHI (R150, R153, R156, R349). -/
def Obligations.LoadsRegister : Prop :=
  ∀ (s : State) (r1 r2 : Reg) (i2 : Half),
    let v := s.reg r2
    Completes (.lr r1 r2) s (RegResult s r1 v s.psw.cc) ∧
    Completes (.ltr r1 r2) s (RegResult s r1 v (ccOfSign v.toInt)) ∧
    Completes (.lnr r1 r2) s (RegResult s r1 (BitVec.ofInt 32 (-(v.toInt.natAbs : Int))) (ccOfSign (-(v.toInt.natAbs : Int)))) ∧
    Completes (.lhi r1 i2) s (RegResult s r1 (i2.signExtend 32) s.psw.cc)

/-- LHR, which extends bits 16-31 of its second operand, and L, LT, LH and IC with a readable operand (R151, R152, R237,
R350, R356). DMA is supposed not to act inside an instruction with an operand in storage (log 23). -/
def Obligations.LoadsFromStorage : Prop :=
  ∀ (s : State) (r1 r2 x2 b2 : Reg) (d2 : Disp),
    let a := s.eax x2 b2 d2
    Completes (.lhr r1 r2) s (RegResult s r1 (((s.reg r2).extractLsb' 0 16).signExtend 32) s.psw.cc) ∧
    (s.dma = [] → s.Readable a 4 4 →
      Completes (.l r1 x2 b2 d2) s (RegResult s r1 (s.word a) s.psw.cc) ∧
      Completes (.lt r1 x2 b2 d2) s (RegResult s r1 (s.word a) (ccOfSign (s.word a).toInt))) ∧
    (s.dma = [] → s.Readable a 2 2 → Completes (.lh r1 x2 b2 d2) s (RegResult s r1 ((s.half a).signExtend 32) s.psw.cc)) ∧
    (s.dma = [] → s.Readable a 1 1 →
      Completes (.ic r1 x2 b2 d2) s (RegResult s r1 ((s.reg r1).extractLsb' 8 24 ++ s.byte a) s.psw.cc))

/-- AR, SR, LCR, LPR, AHI and SHI: the result wraps to 32 bits, the exact result decides condition code and overflow
(R143, R144, R154, R155, R158, R163, R330, R374, R488). -/
def Obligations.AddsRegister : Prop :=
  ∀ (s : State) (r1 r2 : Reg) (i2 : Half),
    let x := s.reg r1
    let y := s.reg r2
    EndsArith (.ar r1 r2) s 32 (x.toInt + y.toInt) (RegResult s r1 (x + y)) ∧
    EndsArith (.sr r1 r2) s 32 (x.toInt - y.toInt) (RegResult s r1 (x - y)) ∧
    EndsArith (.lcr r1 r2) s 32 (-y.toInt) (RegResult s r1 (-y)) ∧
    EndsArith (.lpr r1 r2) s 32 y.toInt.natAbs (RegResult s r1 (if y.msb then -y else y)) ∧
    EndsArith (.ahi r1 i2) s 32 (x.toInt + i2.toInt) (RegResult s r1 (x + i2.signExtend 32)) ∧
    EndsArith (.shi r1 i2) s 32 (x.toInt - i2.toInt) (RegResult s r1 (x - i2.signExtend 32))

/-- A, S, AH and SH with a readable operand (R159, R160, R164, R165, R488). DMA is supposed not to act inside an instruction
with an operand in storage (log 23). -/
def Obligations.AddsFromStorage : Prop :=
  ∀ (s : State) (r1 x2 b2 : Reg) (d2 : Disp),
    let a := s.eax x2 b2 d2
    let x := s.reg r1
    let w := s.word a
    let h := s.half a
    (s.dma = [] → s.Readable a 4 4 →
      EndsArith (.a r1 x2 b2 d2) s 32 (x.toInt + w.toInt) (RegResult s r1 (x + w)) ∧
      EndsArith (.s r1 x2 b2 d2) s 32 (x.toInt - w.toInt) (RegResult s r1 (x - w))) ∧
    (s.dma = [] → s.Readable a 2 2 →
      EndsArith (.ah r1 x2 b2 d2) s 32 (x.toInt + h.toInt) (RegResult s r1 (x + h.signExtend 32)) ∧
      EndsArith (.sh r1 x2 b2 d2) s 32 (x.toInt - h.toInt) (RegResult s r1 (x - h.signExtend 32)))

/-- ALR and SLR, and AL and SL with a readable operand: bit 34 of the PSW becomes the carry out of the sign position, for a
subtraction that of the sum with the complement and one, and bit 35 tells a nonzero result (R161, R162, R166, R167). DMA is
supposed not to act inside an instruction with an operand in storage (log 23). -/
def Obligations.AddsLogical : Prop :=
  ∀ (s : State) (r1 r2 x2 b2 : Reg) (d2 : Disp),
    let a := s.eax x2 b2 d2
    let x := s.reg r1
    let sumCode := fun y : Word => BitVec.ofBool (decide (2 ^ 32 ≤ x.toNat + y.toNat)) ++ BitVec.ofBool (x + y != 0#32)
    let diffCode := fun y : Word =>
      BitVec.ofBool (decide (2 ^ 32 ≤ x.toNat + (~~~y).toNat + 1)) ++ BitVec.ofBool (x - y != 0#32)
    Completes (.alr r1 r2) s (RegResult s r1 (x + s.reg r2) (sumCode (s.reg r2))) ∧
    Completes (.slr r1 r2) s (RegResult s r1 (x - s.reg r2) (diffCode (s.reg r2))) ∧
    (s.dma = [] → s.Readable a 4 4 →
      Completes (.al r1 x2 b2 d2) s (RegResult s r1 (x + s.word a) (sumCode (s.word a))) ∧
      Completes (.sl r1 x2 b2 d2) s (RegResult s r1 (x - s.word a) (diffCode (s.word a))))

/-- CR, C, CH, CHI compare as signed numbers, CLR and CL as unsigned ones (R168, R169, R170, R220, R221, R336). DMA is
supposed not to act inside an instruction with an operand in storage (log 23). -/
def Obligations.ComparesWords : Prop :=
  ∀ (s : State) (r1 r2 x2 b2 : Reg) (d2 : Disp) (i2 : Half),
    let a := s.eax x2 b2 d2
    let x := s.reg r1
    Completes (.cr r1 r2) s (CcResult s (ccOfOrder x.toInt (s.reg r2).toInt)) ∧
    Completes (.chi r1 i2) s (CcResult s (ccOfOrder x.toInt i2.toInt)) ∧
    Completes (.clr r1 r2) s (CcResult s (ccOfOrder x.toNat (s.reg r2).toNat)) ∧
    (s.dma = [] → s.Readable a 4 4 →
      Completes (.c r1 x2 b2 d2) s (CcResult s (ccOfOrder x.toInt (s.word a).toInt)) ∧
      Completes (.cl r1 x2 b2 d2) s (CcResult s (ccOfOrder x.toNat (s.word a).toNat))) ∧
    (s.dma = [] → s.Readable a 2 2 → Completes (.ch r1 x2 b2 d2) s (CcResult s (ccOfOrder x.toInt (s.half a).toInt)))

/-- MR and M put the 64-bit product of the odd register of the pair in the pair, MH and MHI the low half of the product in
the register, storage operands being readable; no overflow is possible or told (R171, R172, R173, R359). DMA is supposed not
to act inside an instruction with an operand in storage (log 23). -/
def Obligations.MultipliesWords : Prop :=
  ∀ (s : State) (r1 r2 x2 b2 : Reg) (d2 : Disp) (i2 : Half),
    let a := s.eax x2 b2 d2
    let x := (s.reg (r1 + 1#4)).toInt
    let y := s.reg r1
    (evenReg r1 = true →
      Completes (.mr r1 r2) s (PairResult s r1 (BitVec.ofInt 64 (x * (s.reg r2).toInt)) s.psw.cc) ∧
      (s.dma = [] → s.Readable a 4 4 →
        Completes (.m r1 x2 b2 d2) s (PairResult s r1 (BitVec.ofInt 64 (x * (s.word a).toInt)) s.psw.cc))) ∧
    Completes (.mhi r1 i2) s (RegResult s r1 (y * i2.signExtend 32) s.psw.cc) ∧
    (s.dma = [] → s.Readable a 2 2 →
      Completes (.mh r1 x2 b2 d2) s (RegResult s r1 (y * (s.half a).signExtend 32) s.psw.cc))

/-- DR and D: whenever the dividend is quotient times divisor plus remainder, with a remainder smaller than the divisor and
of the dividend's sign or zero, and the quotient fits in 32 bits, they end in the pair; a zero divisor or a quotient that
does not fit is the fixed-point-divide exception, with the dividend unchanged (R174, R175, R489; D20). DMA is supposed not to
act inside an instruction with an operand in storage (log 23). -/
def Obligations.DividesWords : Prop :=
  ∀ (s : State) (r1 r2 x2 b2 : Reg) (d2 : Disp) (q m : Int), evenReg r1 = true →
    let a := s.eax x2 b2 d2
    let n := (s.reg r1 ++ s.reg (r1 + 1#4)).toInt
    let good := fun d : Word =>
      n = q * d.toInt + m ∧ m.natAbs < d.toInt.natAbs ∧ (m = 0 ∨ (m < 0 ↔ n < 0))
    let result := BitVec.ofInt 32 m ++ BitVec.ofInt 32 q
    (good (s.reg r2) → InRange 32 q → Completes (.dr r1 r2) s (PairResult s r1 result s.psw.cc)) ∧
    (s.reg r2 = 0#32 ∨ good (s.reg r2) ∧ ¬InRange 32 q → Suppressed .fixedDivide (.dr r1 r2) s) ∧
    (s.dma = [] → s.Readable a 4 4 →
      (good (s.word a) → InRange 32 q → Completes (.d r1 x2 b2 d2) s (PairResult s r1 result s.psw.cc)) ∧
      (s.word a = 0#32 ∨ good (s.word a) ∧ ¬InRange 32 q → Suppressed .fixedDivide (.d r1 x2 b2 d2) s))

/-- On accessible operands, CVB gives the number of a valid packed decimal double word, its low 32 bits with a
fixed-point-divide interruption where it does not fit, and a data exception where a digit or sign code is invalid; CVD stores
the one valid double word with the preferred sign code that stands for the register's number (R185, R186, R487, R489). DMA is
supposed not to act inside an instruction with an operand in storage (log 23). -/
def Obligations.ConvertsRadix : Prop :=
  ∀ (s : State) (r1 x2 b2 : Reg) (d2 : Disp),
    let a := s.eax x2 b2 d2
    let w := s.dword a
    (s.dma = [] → s.Readable a 8 8 →
      (DecimalValid w → InRange 32 (decimalNumber w) →
        Completes (.cvb r1 x2 b2 d2) s (RegResult s r1 (BitVec.ofInt 32 (decimalNumber w)) s.psw.cc)) ∧
      (DecimalValid w → ¬InRange 32 (decimalNumber w) →
        TrapsAfter .fixedDivide (.cvb r1 x2 b2 d2) s (RegResult s r1 (BitVec.ofInt 32 (decimalNumber w)) s.psw.cc)) ∧
      (¬DecimalValid w → Suppressed .data (.cvb r1 x2 b2 d2) s)) ∧
    (s.dma = [] → s.Writable a 8 8 →
      ∃ v : Dword, DecimalValid v ∧ decimalNumber v = (s.reg r1).toInt ∧
        decimalSign v = (match s.psw.a, (s.reg r1).msb with
          | false, false => 12#4 | false, true => 13#4 | true, false => 10#4 | true, true => 11#4) ∧
        ∃ t, exec (.cvd r1 x2 b2 d2) s = .next t ∧ t.dword a = v ∧ t.psw = s.psw ∧ SameStorageBut a 8 s t ∧
          SameGrBut [] s t ∧ t.fpr = s.fpr ∧ SameControl s t)

/-- ST, STH, STC, STD, STE and MVI with a writable operand store their bytes, leftmost first, and change nothing else (R62,
R187, R188, R216, R238, R416, R451). DMA is supposed not to act inside an instruction with an operand in storage (log 23). -/
def Obligations.StoresRegister : Prop :=
  ∀ (s : State) (r1 x2 b2 : Reg) (d2 : Disp) (i2 : Byte),
    let a := s.eax x2 b2 d2
    let part := fun (v : Word) (k : Nat) => v.extractLsb' (24 - 8 * k) 8
    let word := fun v : Word => [part v 0, part v 1, part v 2, part v 3]
    (s.dma = [] → s.Writable a 4 4 → Completes (.st r1 x2 b2 d2) s (StoreResult s a (word (s.reg r1)) s.psw.cc)) ∧
    (s.dma = [] → s.Writable a 2 2 →
      Completes (.sth r1 x2 b2 d2) s (StoreResult s a [part (s.reg r1) 2, part (s.reg r1) 3] s.psw.cc)) ∧
    (s.dma = [] → s.Writable a 1 1 → Completes (.stc r1 x2 b2 d2) s (StoreResult s a [part (s.reg r1) 3] s.psw.cc)) ∧
    (evenReg r1 = true → s.dma = [] → s.Writable a 8 4 →
      Completes (.std r1 x2 b2 d2) s (StoreResult s a (word (s.reg r1) ++ word (s.reg (r1 + 1#4))) s.psw.cc)) ∧
    (fpReg r1 = true → s.dma = [] → s.Writable a 4 4 →
      Completes (.ste r1 x2 b2 d2) s (StoreResult s a (word (s.fp r1)) s.psw.cc)) ∧
    (s.dma = [] → s.Writable (s.ea b2 d2) 1 1 → Completes (.mvi i2 b2 d2) s (StoreResult s (s.ea b2 d2) [i2] s.psw.cc))

/-- LM and STM move the registers from R1 up to R3, register 0 following register 15, from readable and to writable
successive words (R157, R189). DMA is supposed not to act inside an instruction with an operand in storage (log 23). -/
def Obligations.MovesMultiple : Prop :=
  ∀ (s : State) (r1 r3 b2 : Reg) (d2 : Disp),
    let a := s.ea b2 d2
    let n := (r3 - r1).toNat + 1
    let at_ := fun k : Nat => a + BitVec.ofNat 20 (4 * k)
    (s.dma = [] → s.Readable a (4 * n) 4 →
      ∃ t, exec (.lm r1 r3 b2 d2) s = .next t ∧ (∀ k, k < n → t.reg (r1 + BitVec.ofNat 4 k) = s.word (at_ k)) ∧
        (∀ q : Reg, n ≤ (q - r1).toNat → t.reg q = s.reg q) ∧ t = { s with gr := t.gr } ∧ SameStorage s t) ∧
    (s.dma = [] → s.Writable a (4 * n) 4 →
      ∃ t, exec (.stm r1 r3 b2 d2) s = .next t ∧ (∀ k, k < n → t.word (at_ k) = s.reg (r1 + BitVec.ofNat 4 k)) ∧
        SameStorageBut a (4 * n) s t ∧ t = { s with mem := t.mem })

/-! ## Shifts -/

/-- SLA, SLDA and SLAS shift the integer field left under a fixed sign, by the low six bits of the second operand address,
an overflow being a lost bit unlike the sign; SRA, SRDA and SRAS divide by a power of two, rounding downward (R190 to R193,
R370, R372; that SLAS follows R370, not the row of R564 that speaks of the upper half, is the model's choice, log 53). -/
def Obligations.ShiftsArithmetic : Prop :=
  ∀ (s : State) (r1 b2 : Reg) (d2 : Disp),
    let n := (s.ea b2 d2).toNat % 64
    let v := s.reg r1
    let w := s.reg r1 ++ s.reg (r1 + 1#4)
    let h := (s.reg r1).extractLsb' 0 16
    EndsArith (.sla r1 b2 d2) s 32 (v.toInt * 2 ^ min n 31)
      (RegResult s r1 (BitVec.ofBool v.msb ++ (v.extractLsb' 0 31 <<< n))) ∧
    EndsArith (.slas r1 b2 d2) s 16 (h.toInt * 2 ^ min n 15)
      (LoResult s r1 (BitVec.ofBool h.msb ++ (h.extractLsb' 0 15 <<< n))) ∧
    Completes (.sra r1 b2 d2) s (RegResult s r1 (v.sshiftRight n) (ccOfSign (v.toInt / 2 ^ n))) ∧
    Completes (.sras r1 b2 d2) s (LoResult s r1 (h.sshiftRight n) (ccOfSign (h.toInt / 2 ^ n))) ∧
    (evenReg r1 = true →
      EndsArith (.slda r1 b2 d2) s 64 (w.toInt * 2 ^ min n 63)
        (PairResult s r1 (BitVec.ofBool w.msb ++ (w.extractLsb' 0 63 <<< n))) ∧
      Completes (.srda r1 b2 d2) s (PairResult s r1 (w.sshiftRight n) (ccOfSign (w.toInt / 2 ^ n))))

/-- SLL, SRL, SLLS, SRLS, SLDL and SRDL shift all bits of the operand in zeros and leave the condition code (R249 to R252,
R371, R373). -/
def Obligations.ShiftsLogical : Prop :=
  ∀ (s : State) (r1 b2 : Reg) (d2 : Disp),
    let n := (s.ea b2 d2).toNat % 64
    let v := s.reg r1
    let w := s.reg r1 ++ s.reg (r1 + 1#4)
    let h := (s.reg r1).extractLsb' 0 16
    Completes (.sll r1 b2 d2) s (RegResult s r1 (v <<< n) s.psw.cc) ∧
    Completes (.srl r1 b2 d2) s (RegResult s r1 (v >>> n) s.psw.cc) ∧
    Completes (.slls r1 b2 d2) s (LoResult s r1 (h <<< n) s.psw.cc) ∧
    Completes (.srls r1 b2 d2) s (LoResult s r1 (h >>> n) s.psw.cc) ∧
    (evenReg r1 = true →
      Completes (.sldl r1 b2 d2) s (PairResult s r1 (w <<< n) s.psw.cc) ∧
      Completes (.srdl r1 b2 d2) s (PairResult s r1 (w >>> n) s.psw.cc))

/-! ## Double precision -/

/-- LDR, LCDR, ADR, SDR and CDR with even register numbers; LD, AD, SD and CD with an even register number and a readable
operand, which needs a word boundary only (R401, R407 to R415). DMA is supposed not to act inside an instruction with an
operand in storage (log 23). -/
def Obligations.DoublePrecisionArithmetic : Prop :=
  ∀ (s : State) (r1 r2 x2 b2 : Reg) (d2 : Disp), evenReg r1 = true →
    let a := s.eax x2 b2 d2
    let x := s.reg r1 ++ s.reg (r1 + 1#4)
    let y := s.reg r2 ++ s.reg (r2 + 1#4)
    let w := s.dword a
    (evenReg r2 = true →
      Completes (.ldr r1 r2) s (PairResult s r1 y s.psw.cc) ∧
      EndsArith (.lcdr r1 r2) s 64 (-y.toInt) (PairResult s r1 (-y)) ∧
      EndsArith (.adr r1 r2) s 64 (x.toInt + y.toInt) (PairResult s r1 (x + y)) ∧
      EndsArith (.sdr r1 r2) s 64 (x.toInt - y.toInt) (PairResult s r1 (x - y)) ∧
      Completes (.cdr r1 r2) s (CcResult s (ccOfOrder x.toInt y.toInt))) ∧
    (s.dma = [] → s.Readable a 8 4 →
      Completes (.ld r1 x2 b2 d2) s (PairResult s r1 w s.psw.cc) ∧
      EndsArith (.ad r1 x2 b2 d2) s 64 (x.toInt + w.toInt) (PairResult s r1 (x + w)) ∧
      EndsArith (.sd r1 x2 b2 d2) s 64 (x.toInt - w.toInt) (PairResult s r1 (x - w)) ∧
      Completes (.cd r1 x2 b2 d2) s (CcResult s (ccOfOrder x.toInt w.toInt)))

/-! ## Short precision -/

/-- LSR, LSI, LTSR, LNSR, and LS and LTS with a readable operand, leave bits 0-15 of the register (R321, R351, R353, R354,
R355, R357, R358). DMA is supposed not to act inside an instruction with an operand in storage (log 23). -/
def Obligations.LoadsShort : Prop :=
  ∀ (s : State) (r1 r2 x2 b2 : Reg) (d2 : Disp) (i2 : Half),
    let a := s.eax x2 b2 d2
    let v := (s.reg r2).extractLsb' 0 16
    let m := -(v.toInt.natAbs : Int)
    Completes (.lsr r1 r2) s (LoResult s r1 v s.psw.cc) ∧
    Completes (.lsi r1 i2) s (LoResult s r1 i2 s.psw.cc) ∧
    Completes (.ltsr r1 r2) s (LoResult s r1 v (ccOfSign v.toInt)) ∧
    Completes (.lnsr r1 r2) s (LoResult s r1 (BitVec.ofInt 16 m) (ccOfSign m)) ∧
    (s.dma = [] → s.Readable a 2 2 →
      Completes (.ls r1 x2 b2 d2) s (LoResult s r1 (s.half a) s.psw.cc) ∧
      Completes (.lts r1 x2 b2 d2) s (LoResult s r1 (s.half a) (ccOfSign (s.half a).toInt)))

/-- ASR, ASI, SSR, SSI, LCSR, LPSR, LFSR, and AS and SS with a readable operand (R331, R332, R333, R347, R348, R352, R375,
R376, R377, R488). DMA is supposed not to act inside an instruction with an operand in storage (log 23). -/
def Obligations.AddsShort : Prop :=
  ∀ (s : State) (r1 r2 x2 b2 : Reg) (d2 : Disp) (i2 : Half),
    let a := s.eax x2 b2 d2
    let x := (s.reg r1).extractLsb' 0 16
    let y := (s.reg r2).extractLsb' 0 16
    let h := s.half a
    EndsArith (.asr r1 r2) s 16 (x.toInt + y.toInt) (LoResult s r1 (x + y)) ∧
    EndsArith (.asi r1 i2) s 16 (x.toInt + i2.toInt) (LoResult s r1 (x + i2)) ∧
    EndsArith (.ssr r1 r2) s 16 (x.toInt - y.toInt) (LoResult s r1 (x - y)) ∧
    EndsArith (.ssi r1 i2) s 16 (x.toInt - i2.toInt) (LoResult s r1 (x - i2)) ∧
    EndsArith (.lcsr r1 r2) s 16 (-y.toInt) (LoResult s r1 (-y)) ∧
    EndsArith (.lpsr r1 r2) s 16 y.toInt.natAbs (LoResult s r1 (if y.msb then -y else y)) ∧
    EndsArith (.lfsr r1 r2) s 16 (s.reg r2).toInt (LoResult s r1 y) ∧
    (s.dma = [] → s.Readable a 2 2 →
      EndsArith (.as r1 x2 b2 d2) s 16 (x.toInt + h.toInt) (LoResult s r1 (x + h)) ∧
      EndsArith (.ss r1 x2 b2 d2) s 16 (x.toInt - h.toInt) (LoResult s r1 (x - h)))

/-- CSR, CSI, CS compare bits 16-31 as signed numbers, CLSR, CLSI, CLS as unsigned ones; TBI and TB tell whether the bits
that the mask selects are all zero, all one or mixed (R337 to R342, R378, R379). DMA is supposed not to act inside an
instruction with an operand in storage (log 23). -/
def Obligations.ComparesShort : Prop :=
  ∀ (s : State) (r1 r2 x2 b2 : Reg) (d2 : Disp) (i2 : Half),
    let a := s.eax x2 b2 d2
    let x := (s.reg r1).extractLsb' 0 16
    let y := (s.reg r2).extractLsb' 0 16
    let h := s.half a
    let tested : Half → Cc := fun m => if m &&& x = 0#16 then 0 else if m &&& ~~~x = 0#16 then 3 else 1
    Completes (.csr r1 r2) s (CcResult s (ccOfOrder x.toInt y.toInt)) ∧
    Completes (.csi r1 i2) s (CcResult s (ccOfOrder x.toInt i2.toInt)) ∧
    Completes (.clsr r1 r2) s (CcResult s (ccOfOrder x.toNat y.toNat)) ∧
    Completes (.clsi r1 i2) s (CcResult s (ccOfOrder x.toNat i2.toNat)) ∧
    Completes (.tbi r1 i2) s (CcResult s (tested i2)) ∧
    (s.dma = [] → s.Readable a 2 2 →
      Completes (.cs r1 x2 b2 d2) s (CcResult s (ccOfOrder x.toInt h.toInt)) ∧
      Completes (.cls r1 x2 b2 d2) s (CcResult s (ccOfOrder x.toNat h.toNat)) ∧
      Completes (.tb r1 x2 b2 d2) s (CcResult s (tested h)))

/-- NSR, NSI, OSR, OSI, XSR, XSI, and NS, OS, XS with a readable operand (R364 to R369, R380, R381, R382). DMA is supposed
not to act inside an instruction with an operand in storage (log 23). -/
def Obligations.ConnectsShort : Prop :=
  ∀ (s : State) (r1 r2 x2 b2 : Reg) (d2 : Disp) (i2 : Half),
    let a := s.eax x2 b2 d2
    let x := (s.reg r1).extractLsb' 0 16
    let y := (s.reg r2).extractLsb' 0 16
    let h := s.half a
    let nz : Half → Cc := fun v => if v = 0#16 then 0 else 1
    Completes (.nsr r1 r2) s (LoResult s r1 (x &&& y) (nz (x &&& y))) ∧
    Completes (.nsi r1 i2) s (LoResult s r1 (x &&& i2) (nz (x &&& i2))) ∧
    Completes (.osr r1 r2) s (LoResult s r1 (x ||| y) (nz (x ||| y))) ∧
    Completes (.osi r1 i2) s (LoResult s r1 (x ||| i2) (nz (x ||| i2))) ∧
    Completes (.xsr r1 r2) s (LoResult s r1 (x ^^^ y) (nz (x ^^^ y))) ∧
    Completes (.xsi r1 i2) s (LoResult s r1 (x ^^^ i2) (nz (x ^^^ i2))) ∧
    (s.dma = [] → s.Readable a 2 2 →
      Completes (.ns r1 x2 b2 d2) s (LoResult s r1 (x &&& h) (nz (x &&& h))) ∧
      Completes (.os r1 x2 b2 d2) s (LoResult s r1 (x ||| h) (nz (x ||| h))) ∧
      Completes (.xs r1 x2 b2 d2) s (LoResult s r1 (x ^^^ h) (nz (x ^^^ h))))

/-- MSR, MSI, MS give the exact 32-bit product of two short operands; DSR, DSI, DS the quotient of a 32-bit dividend by a
short divisor, rounded toward zero and sign-extended, where it fits in 16 bits, and else, or for a zero divisor, the
fixed-point-divide exception (R343, R344, R345, R360, R361, R362, R489; D20). DMA is supposed not to act inside an
instruction with an operand in storage (log 23). -/
def Obligations.MultipliesAndDividesShort : Prop :=
  ∀ (s : State) (r1 r2 x2 b2 : Reg) (d2 : Disp) (i2 : Half) (q m : Int),
    let a := s.eax x2 b2 d2
    let x := ((s.reg r1).extractLsb' 0 16).toInt
    let y := (s.reg r2).extractLsb' 0 16
    let h := s.half a
    let n := (s.reg r1).toInt
    let good := fun d : Half => n = q * d.toInt + m ∧ m.natAbs < d.toInt.natAbs ∧ (m = 0 ∨ (m < 0 ↔ n < 0))
    let divides := fun (i : Instr) (d : Half) =>
      (good d → InRange 16 q → Completes i s (RegResult s r1 (BitVec.ofInt 32 q) s.psw.cc)) ∧
      (d = 0#16 ∨ good d ∧ ¬InRange 16 q → Suppressed .fixedDivide i s)
    Completes (.msr r1 r2) s (RegResult s r1 (BitVec.ofInt 32 (x * y.toInt)) s.psw.cc) ∧
    Completes (.msi r1 i2) s (RegResult s r1 (BitVec.ofInt 32 (x * i2.toInt)) s.psw.cc) ∧
    divides (.dsr r1 r2) y ∧ divides (.dsi r1 i2) i2 ∧
    (s.dma = [] → s.Readable a 2 2 →
      Completes (.ms r1 x2 b2 d2) s (RegResult s r1 (BitVec.ofInt 32 (x * h.toInt)) s.psw.cc) ∧
      divides (.ds r1 x2 b2 d2) h)

/-- NRM shifts the operand left until bits 0 and 1 differ: the result times a power of two is exact, normalized, or zero
for zero; the other register gets the count, but where it is the same register the result (R363). -/
def Obligations.NormalizesWord : Prop :=
  ∀ (s : State) (r1 r2 : Reg),
    ∃ n t, exec (.nrm r1 r2) s = .next t ∧ n ≤ 31 ∧ (t.reg r1).toInt = (s.reg r1).toInt * 2 ^ n ∧
      (s.reg r1 = 0#32 → n = 0) ∧ (s.reg r1 ≠ 0#32 → (t.reg r1).getLsbD 31 ≠ (t.reg r1).getLsbD 30) ∧
      (r2 ≠ r1 → t.reg r2 = BitVec.ofNat 32 n) ∧ t.psw = { s.psw with cc := ccOfSign (s.reg r1).toInt } ∧
      SameGrBut [r1, r2] s t ∧ t.fpr = s.fpr ∧ SameStorage s t ∧ SameControl s t

/-! ## Logical operations -/

/-- NR, OR, XR, and N, O, X with a readable operand (R224, R225, R228, R229, R232, R233). DMA is supposed not to act inside
an instruction with an operand in storage (log 23). -/
def Obligations.ConnectsWords : Prop :=
  ∀ (s : State) (r1 r2 x2 b2 : Reg) (d2 : Disp),
    let a := s.eax x2 b2 d2
    let x := s.reg r1
    let y := s.reg r2
    let w := s.word a
    let nz : Word → Cc := fun v => if v = 0#32 then 0 else 1
    Completes (.nr r1 r2) s (RegResult s r1 (x &&& y) (nz (x &&& y))) ∧
    Completes (.or r1 r2) s (RegResult s r1 (x ||| y) (nz (x ||| y))) ∧
    Completes (.xr r1 r2) s (RegResult s r1 (x ^^^ y) (nz (x ^^^ y))) ∧
    (s.dma = [] → s.Readable a 4 4 →
      Completes (.n r1 x2 b2 d2) s (RegResult s r1 (x &&& w) (nz (x &&& w))) ∧
      Completes (.o r1 x2 b2 d2) s (RegResult s r1 (x ||| w) (nz (x ||| w))) ∧
      Completes (.x r1 x2 b2 d2) s (RegResult s r1 (x ^^^ w) (nz (x ^^^ w))))

/-- NI, OI, XI on a writable byte; CLI and TM on a readable one; TS, which sets the byte to ones and the condition code to
its leftmost bit (R222, R226, R230, R234, R236, R302). DMA is supposed not to act inside an instruction with an operand in
storage (log 23). -/
def Obligations.OperatesOnByte : Prop :=
  ∀ (s : State) (i2 : Byte) (b1 : Reg) (d1 : Disp),
    let a := s.ea b1 d1
    let v := s.byte a
    let nz : Byte → Cc := fun v => if v = 0#8 then 0 else 1
    (s.dma = [] → s.Writable a 1 1 →
      Completes (.ni i2 b1 d1) s (StoreResult s a [v &&& i2] (nz (v &&& i2))) ∧
      Completes (.oi i2 b1 d1) s (StoreResult s a [v ||| i2] (nz (v ||| i2))) ∧
      Completes (.xi i2 b1 d1) s (StoreResult s a [v ^^^ i2] (nz (v ^^^ i2))) ∧
      Completes (.ts b1 d1) s (StoreResult s a [0xFF#8] (if v.msb then 1 else 0))) ∧
    (s.dma = [] → s.Readable a 1 1 →
      Completes (.cli i2 b1 d1) s (CcResult s (ccOfOrder v.toNat i2.toNat)) ∧
      Completes (.tm i2 b1 d1) s
        (CcResult s (if i2 &&& v = 0#8 then 0 else if i2 &&& ~~~v = 0#8 then 3 else 1)))

/-- MVC, MVN, MVZ, NC, OC and XC on fields of which no byte is read after it is stored: each byte of the first operand is
combined with its fellow of the second. An MVC whose first operand starts one byte to the right of its second propagates one
character through the field (R211, R217, R218, R219, R227, R231, R235). DMA is supposed not to act inside an instruction with
an operand in storage (log 23). -/
def Obligations.CombinesFields : Prop :=
  ∀ (s : State) (l : Byte) (b1 b2 : Reg) (d1 d2 : Disp),
    let n := l.toNat + 1
    let a1 := s.ea b1 d1
    let a2 := s.ea b2 d2
    s.dma = [] → s.Writable a1 n 1 → s.Installed a2 n →
    (a1 = a2 + 1#20 →
      Completes (.mvc l b1 d1 b2 d2) s (StoreResult s a1 (List.replicate n (s.byte a2)) s.psw.cc)) ∧
    ((∀ j k, j < k → k < n → a2 + BitVec.ofNat 20 k ≠ a1 + BitVec.ofNat 20 j) →
    let xs := s.bytes a1 n
    let ys := s.bytes a2 n
    let joined := fun f : Byte → Byte → Byte => List.zipWith f xs ys
    let nz := fun bs : List Byte => if ∀ b ∈ bs, b = 0#8 then (0 : Cc) else 1
    Completes (.mvc l b1 d1 b2 d2) s (StoreResult s a1 ys s.psw.cc) ∧
    Completes (.mvn l b1 d1 b2 d2) s (StoreResult s a1 (joined fun x y => x &&& 0xF0#8 ||| y &&& 0x0F#8) s.psw.cc) ∧
    Completes (.mvz l b1 d1 b2 d2) s (StoreResult s a1 (joined fun x y => y &&& 0xF0#8 ||| x &&& 0x0F#8) s.psw.cc) ∧
    Completes (.nc l b1 d1 b2 d2) s (StoreResult s a1 (joined (· &&& ·)) (nz (joined (· &&& ·)))) ∧
    Completes (.oc l b1 d1 b2 d2) s (StoreResult s a1 (joined (· ||| ·)) (nz (joined (· ||| ·)))) ∧
    Completes (.xc l b1 d1 b2 d2) s (StoreResult s a1 (joined (· ^^^ ·)) (nz (joined (· ^^^ ·)))))

/-- CLC on installed fields: equal fields compare equal, and the first byte that differs decides (R223). DMA is supposed not
to act inside an instruction with an operand in storage (log 23). -/
def Obligations.ComparesFields : Prop :=
  ∀ (s : State) (l : Byte) (b1 b2 : Reg) (d1 d2 : Disp),
    let n := l.toNat + 1
    let x := fun k : Nat => s.byte (s.ea b1 d1 + BitVec.ofNat 20 k)
    let y := fun k : Nat => s.byte (s.ea b2 d2 + BitVec.ofNat 20 k)
    s.dma = [] → s.Installed (s.ea b1 d1) n → s.Installed (s.ea b2 d2) n →
    ((∀ k, k < n → x k = y k) → Completes (.clc l b1 d1 b2 d2) s (CcResult s 0)) ∧
    (∀ k, k < n → (∀ j, j < k → x j = y j) → x k ≠ y k →
      Completes (.clc l b1 d1 b2 d2) s (CcResult s (ccOfOrder (x k).toNat (y k).toNat)))

/-- TR replaces each argument byte by the function byte it selects, where no function byte selected later has been
overwritten; TRT stops at the first nonzero function byte and tells its address and value (R247, R248; D9). DMA is supposed
not to act inside an instruction with an operand in storage (log 23). -/
def Obligations.TranslatesFields : Prop :=
  ∀ (s : State) (l : Byte) (b1 b2 : Reg) (d1 d2 : Disp),
    let n := l.toNat + 1
    let a1 := s.ea b1 d1
    let arg := fun k : Nat => s.byte (a1 + BitVec.ofNat 20 k)
    let entry := fun k : Nat => s.ea b2 d2 + (arg k).setWidth 20
    s.dma = [] →
    (s.Writable a1 n 1 → (∀ k, k < n → s.Installed (entry k) 1) →
      (∀ j k, j < k → k < n → entry k ≠ a1 + BitVec.ofNat 20 j) →
      Completes (.tr l b1 d1 b2 d2) s (StoreResult s a1 ((List.range n).map fun k => s.byte (entry k)) s.psw.cc)) ∧
    (s.Installed a1 n → (∀ k, k < n → s.Installed (entry k) 1 ∧ s.byte (entry k) = 0#8) →
      Completes (.trt l b1 d1 b2 d2) s (CcResult s 0)) ∧
    (∀ k, k < n → s.Installed a1 (k + 1) → (∀ j, j ≤ k → s.Installed (entry j) 1) →
      (∀ j, j < k → s.byte (entry j) = 0#8) → s.byte (entry k) ≠ 0#8 →
      ∃ t, exec (.trt l b1 d1 b2 d2) s = .next t ∧
        t.reg 1 = (s.reg 1).extractLsb' 24 8 ++ 0#8 ++ (a1 + BitVec.ofNat 20 k).extractLsb' 0 16 ∧
        t.reg 2 = (s.reg 2).extractLsb' 8 24 ++ s.byte (entry k) ∧
        t.psw = { s.psw with cc := if k + 1 = n then 2 else 1 } ∧
        SameGrBut [1, 2] s t ∧ t.fpr = s.fpr ∧ SameStorage s t ∧ SameControl s t)

/-- PACK, UNPK and MVO on fields that do not overlap: the bytes of the first operand from right to left, the second operand
extended with zeros on the left (R200, R203, R204, R205). DMA is supposed not to act inside an instruction with an operand in
storage (log 23). -/
def Obligations.MovesDecimalDigits : Prop :=
  ∀ (s : State) (l1 l2 : BitVec 4) (b1 b2 : Reg) (d1 d2 : Disp),
    let n1 := l1.toNat + 1
    let n2 := l2.toNat + 1
    let a1 := s.ea b1 d1
    let a2 := s.ea b2 d2
    let src := fun j : Nat => if j < n2 then s.byte (a2 + BitVec.ofNat 20 (l2.toNat - j)) else 0#8
    let left := fun x : Byte => x.extractLsb' 4 4
    let right := fun x : Byte => x.extractLsb' 0 4
    let field := fun f : Nat → Byte => (List.range n1).map fun k => f (l1.toNat - k)
    let zone := if s.psw.a then 5#4 else 15#4
    s.dma = [] → s.Writable a1 n1 1 → s.Installed a2 n2 →
    (∀ j k, j < n1 → k < n2 → a1 + BitVec.ofNat 20 j ≠ a2 + BitVec.ofNat 20 k) →
    Completes (.pack l1 l2 b1 d1 b2 d2) s (StoreResult s a1
      (field fun i => if i = 0 then right (src 0) ++ left (src 0) else right (src (2 * i)) ++ right (src (2 * i - 1)))
      s.psw.cc) ∧
    Completes (.unpk l1 l2 b1 d1 b2 d2) s (StoreResult s a1
      (field fun i => if i = 0 then right (src 0) ++ left (src 0)
        else zone ++ (if i % 2 = 1 then right (src ((i + 1) / 2)) else left (src (i / 2))))
      s.psw.cc) ∧
    Completes (.mvo l1 l2 b1 d1 b2 d2) s (StoreResult s a1
      (field fun i => if i = 0 then right (src 0) ++ right (s.byte (a1 + l1.setWidth 20))
        else right (src i) ++ left (src (i - 1)))
      s.psw.cc)

/-! ## Branching -/

/-- BC and BCR branch where the mask bit of the condition code is one, its leftmost bit standing for code 0, and BCR never
to register 0; BU and BUR always branch, BUR to register 0 too (R265, R266, R267, R334, R335). -/
def Obligations.BranchesOnCondition : Prop :=
  ∀ (s : State) (m1 : BitVec 4) (r2 x2 b2 : Reg) (d2 : Disp),
    let selected := m1 &&& (8#4 >>> s.psw.cc.toNat) ≠ 0#4
    let target := (s.reg r2).extractLsb' 0 20
    Completes (.bc m1 x2 b2 d2) s (BranchResult s none (if selected then s.eax x2 b2 d2 else s.psw.ia)) ∧
    Completes (.bcr m1 r2) s (BranchResult s none (if selected ∧ r2 ≠ 0#4 then target else s.psw.ia)) ∧
    Completes (.bu x2 b2 d2) s (BranchResult s none (s.eax x2 b2 d2)) ∧
    Completes (.bur r2) s (BranchResult s none target)

/-- BAL and BALR put the length code, the condition code, the program mask, PSW bits 40-43 and the instruction address in
the register; the branch address is formed before, and BALR does not branch for R2 = 0 (R32, R261, R270, R271, R272; that
PSW bits 40-43 are held as loaded, and so appear in the register, is the spec's own decision D4, log 41). -/
def Obligations.BranchesAndLinks : Prop :=
  ∀ (s : State) (r1 r2 x2 b2 : Reg) (d2 : Disp),
    let link := fun ilc : BitVec 2 =>
      ilc ++ s.psw.cc ++ s.psw.pm ++ BitVec.ofBool s.psw.b40 ++ s.psw.b41 ++ s.psw.ia
    Completes (.bal r1 x2 b2 d2) s (BranchResult s (some (r1, link 2#2)) (s.eax x2 b2 d2)) ∧
    Completes (.balr r1 r2) s (BranchResult s (some (r1, link (if s.inExecute then 2#2 else 1#2)))
      (if r2 = 0#4 then s.psw.ia else (s.reg r2).extractLsb' 0 20))

/-- BCT and BCTR count down and branch while the count is not zero, BCTR never to register 0; BXH and BXLE add the
increment and branch as the signed comparison with the register R3, its low bit set, says (R268, R269, R273, R274). -/
def Obligations.BranchesOnCountAndIndex : Prop :=
  ∀ (s : State) (r1 r2 r3 x2 b2 : Reg) (d2 : Disp),
    let count := s.reg r1 - 1#32
    let sum := s.reg r1 + s.reg r3
    let high := (s.reg (if evenReg r3 then r3 + 1#4 else r3)).toInt < sum.toInt
    Completes (.bct r1 x2 b2 d2) s
      (BranchResult s (some (r1, count)) (if count = 0#32 then s.psw.ia else s.eax x2 b2 d2)) ∧
    Completes (.bctr r1 r2) s (BranchResult s (some (r1, count))
      (if count = 0#32 ∨ r2 = 0#4 then s.psw.ia else (s.reg r2).extractLsb' 0 20)) ∧
    Completes (.bxh r1 r3 b2 d2) s (BranchResult s (some (r1, sum)) (if high then s.ea b2 d2 else s.psw.ia)) ∧
    Completes (.bxle r1 r3 b2 d2) s (BranchResult s (some (r1, sum)) (if high then s.psw.ia else s.ea b2 d2))

/-- EX: the instruction at the branch address, its second byte OR'ed with bits 24-31 of register R1 unless R1 is 0, has its
own meaning, with length code 2; another EX is the execute exception, the fetch checks apply, and a subject in the last
fullword of a storage below 2^20 is refused (R270, R275, R276, R561; the spec's own decisions are D10, the base field 0 in
the subject, log 19, D33, that refusal, log 39, and D22 of R107, the length of an operation code that is not assigned or
whose option is absent, log 41). That such a code is told in the last fullword too is the model's choice (log 18). The second
part says of a subject LR, and of no other, that EX completes; the first reduces every other subject to its own statement.
DMA is supposed not to act inside an instruction with an operand in storage (log 23). -/
def Obligations.ExecutesSubject : Prop :=
  ∀ (s : State) (r1 x2 b2 : Reg) (d2 : Disp), s.inExecute = false → s.dma = [] →
    let a := s.eax x2 b2 d2
    let n := instrLength s.params.opts.short (s.byte a)
    let m := s.byte (a + 1#20) ||| (if r1 = 0#4 then 0#8 else (s.reg r1).extractLsb' 0 8)
    let bytes := s.byte a :: m :: s.bytes (a + 2#20) (2 * n - 2)
    let s' := { s with ilc := 2#2 }
    let exits := fun r : Result => match r with
      | .next t => Host.Outcome.next { t with inExecute := false }
      | r => r
    let safe := s.params.memSize = 2 ^ 20 ∨ a.toNat + 2 * n + 4 ≤ s.params.memSize
    let fetched := a.getLsbD 0 = false ∧ s.Installed a (2 * n)
    (∀ i rest, fetched → safe → s.byte a ≠ 0x44#8 → decode s.params.opts bytes = .ok (i, rest) →
      exec (.ex r1 x2 b2 d2) s = exits (exec i { s' with inExecute := true })) ∧
    (fetched → safe → s.byte a = 0x18#8 →
      ∃ t, exec (.ex r1 x2 b2 d2) s = .next t ∧ t.reg (m.extractLsb' 4 4) = s.reg (m.extractLsb' 0 4) ∧
        SameGrBut [m.extractLsb' 4 4] s t ∧ t = { s' with gr := t.gr }) ∧
    (fetched → safe → s.byte a = 0x44#8 → exec (.ex r1 x2 b2 d2) s = raise .execute s') ∧
    (∀ i rest, fetched → s.params.memSize < 2 ^ 20 → s.params.memSize < a.toNat + 2 * n + 4 →
      decode s.params.opts bytes = .ok (i, rest) → exec (.ex r1 x2 b2 d2) s = .refused .lastFullword) ∧
    (fetched → (∀ r ∈ opRows, r.op = s.byte a → r.need.met s.params.opts = false) →
      exec (.ex r1 x2 b2 d2) s = raise .operation s') ∧
    (s.Installed a 1 → a.getLsbD 0 = false → ¬s.Installed a (2 * n) →
      exec (.ex r1 x2 b2 d2) s = raise .addressing s') ∧
    (s.Installed a 1 → a.getLsbD 0 = true → exec (.ex r1 x2 b2 d2) s = raise .specification s') ∧
    (¬s.Installed a 1 → exec (.ex r1 x2 b2 d2) s = raise .addressing s')

/-! ## Status switching, input and output -/

/-- LPSW in supervisor state from an available double word boundary loads every part of the PSW but bits 16-33; it thus
returns from an interruption: the PSW that an interruption has stored and LPSW reloads is the PSW before it (R296, R479; the
spec's own decisions, log 41, are D4, that bits 40-43 are held as loaded and stored back, and D3, that the interruption code is
no part of the current PSW). DMA is supposed not to act inside an instruction with an operand in storage (log 23). -/
def Obligations.LoadPswReturns : Prop :=
  (∀ (s : State) (b1 : Reg) (d1 : Disp),
    let a := s.ea b1 d1
    let w := s.dword a
    s.dma = [] → s.psw.p = false → s.Readable a 1 8 →
    ∃ t, exec (.lpsw b1 d1) s = .next t ∧ t = { s with psw := t.psw } ∧ t.psw =
      { sm := w.extractLsb' 56 8, key := w.extractLsb' 52 4, a := w.getLsbD 51, m := w.getLsbD 50, w := w.getLsbD 49,
        p := w.getLsbD 48, cc := w.extractLsb' 28 2, pm := w.extractLsb' 24 4, b40 := w.getLsbD 23,
        b41 := w.extractLsb' 20 3, ia := w.extractLsb' 0 20 }) ∧
  (∀ (s u : State) (c : IntClass) (code : Half) (ilc : BitVec 2) (b1 : Reg) (d1 : Disp),
    c ≠ .machineCheck → u.dma = [] → u.psw.p = false → u.ea b1 d1 = c.oldLoc → u.Installed c.oldLoc 1 →
    u.dword c.oldLoc = (s.interrupt c code ilc).dword c.oldLoc →
    ∃ t, exec (.lpsw b1 d1) u = .next t ∧ t.psw = s.psw)

/-- SPM in either state; SSM, SSK in supervisor state with an available operand or block, DMA having access before SSK sets
the key, under the old one (R297, R298, R299, R517; D11, log 41: SSK with any low bits in its block address; D8, log 23). DMA
is supposed not to act inside an instruction with an operand in storage (log 23). -/
def Obligations.SetsMasksAndKeys : Prop :=
  ∀ (s : State) (r1 r2 b1 : Reg) (d1 : Disp),
    let v := s.reg r1
    let block := ((s.reg r2).extractLsb' 10 10).toNat
    Completes (.spm r1) s (fun t =>
      t = { s with psw := { s.psw with cc := v.extractLsb' 28 2, pm := v.extractLsb' 24 4 } } ∧ SameStorage s t) ∧
    (s.dma = [] → s.psw.p = false → s.Installed (s.ea b1 d1) 1 → Completes (.ssm b1 d1) s (fun t =>
      t = { s with psw := { s.psw with sm := s.byte (s.ea b1 d1) } } ∧ SameStorage s t)) ∧
    (s.psw.p = false → block * 1024 < s.params.memSize → Completes (.ssk r1 r2) s (fun t =>
      t.key block = v.extractLsb' 0 2 ∧ (∀ b, b ≠ block → t.key b = s.key b) ∧ t = { s.access with keys := t.keys } ∧
      SameStorage s.access t))

/-- SVC is the supervisor-call interruption with its eight bits as the code and the length code 1, or 2 under EXECUTE
(R300, R498; the spec's own decisions, log 41, are D4, that bits 40-43 are held as loaded and stored back, D6 for the unchecked
store and D7 for the key; log 23 for DMA, D8, which has access before). -/
def Obligations.SupervisorCallInterrupts : Prop :=
  ∀ (s : State) (code : Byte), let u := s.access; Completes (.svc code) s (fun t =>
    t.dword 32 =
      s.psw.sm ++ s.psw.key ++ BitVec.ofBool s.psw.a ++ BitVec.ofBool s.psw.m ++ BitVec.ofBool s.psw.w ++
        BitVec.ofBool s.psw.p ++ 0#8 ++ code ++ (if s.inExecute then 2#2 else 1#2) ++ s.psw.cc ++ s.psw.pm ++
        BitVec.ofBool s.psw.b40 ++ s.psw.b41 ++ s.psw.ia ∧
    t.psw = Psw.unpack (u.dword 96) ∧ t.key 0 = 1#2 ∧ (∀ b, b ≠ 0 → t.key b = s.key b) ∧ SameStorageBut 32 8 u t ∧
    t = { u with psw := t.psw, mode := .operating, keys := t.keys, mem := t.mem })

/-- TMRS with an accessible operand reads the clock (function 0), the interval timer (1), and in supervisor state also sets
the clock from a word on a halfword boundary (2) or the timer from a halfword (3) (R306; that a pending timer request stays
pending is the spec's own decision D18, log 41, that R3 is the destination although R112 lists it as ignored is log 45). DMA
is supposed not to act inside an instruction with an operand in storage (log 23). -/
def Obligations.TimerReadAndSet : Prop :=
  ∀ (s : State) (r3 b2 : Reg) (d2 : Disp),
    let a := s.ea b2 d2
    let frame := fun t : State => SameGrBut [r3] s t ∧ SameStorage s t
    s.Readable a 1 2 →
    Completes (.tmrs 0 r3 b2 d2) s (fun t => t.reg r3 = s.rtc ∧ frame t ∧ t = { s with gr := t.gr }) ∧
    Completes (.tmrs 1 r3 b2 d2) s (fun t =>
      t.reg r3 = 0#16 ++ s.intimer ∧ frame t ∧ t = { s with gr := t.gr }) ∧
    (s.dma = [] → s.psw.p = false → s.Installed (a + 2#20) 1 → Completes (.tmrs 2 r3 b2 d2) s (fun t =>
      t.reg r3 = s.rtc ∧ frame t ∧ t = { s with gr := t.gr, rtc := s.word a })) ∧
    (s.dma = [] → s.psw.p = false → Completes (.tmrs 3 r3 b2 d2) s (fun t =>
      t.reg r3 = 0#16 ++ s.intimer ∧ frame t ∧ t = { s with gr := t.gr, intimer := s.half a }))

/-- SIO in supervisor state with an accessible command word: a write direct or read direct sets condition code 1 and does
nothing else while the channel is busy; else a write direct sends the command and the register's low half, and selects the
typewriter mode or moves the tape where the command says so; a read direct puts a word in the low half of the register: a part
of a panel register for the commands 4 to 7, else a device's word, or any value where no device has one; both with condition
code 0. RESET INTERFACE frees the channel, TEST INTERFACE tells whether it is busy, and a word of none of the forms is refused.
DMA is supposed not to act inside the instruction (R304, R305, R516, R535, D15; log 12 for the device's word, log 22 for the
patterns, log 42 for RESET INTERFACE while the interrupt key is pending, log 49 for the tape, the typewriter, the pending
requests and the device words that it leaves alone, log 51 for the halfword at 66 after it, log 23 for DMA). -/
def Obligations.StartsInputOutput : Prop :=
  ∀ (s : State) (r1 r3 b2 : Reg) (d2 : Disp) (w : Half) (ws : List Half),
    let a := s.ea b2 d2
    let cmd := s.half a
    let left := cmd.extractLsb' 8 8
    let data := (s.reg r1).extractLsb' 0 16
    let commanded : Tse :=
      if cmd = s.params.typewriterOutput then { s.tse with typewriter := .output }
      else if cmd = 0xFF62#16 then { s.tse with typewriter := .input }
      else if cmd = 0xFF41#16 then { s.tse with tapeRunning := true }
      else if cmd = 0xFF42#16 then { s.tse with tapeRunning := false }
      else s.tse
    let delivers := fun (v : Half) (t : State) =>
      t.reg r3 = (s.reg r3).extractLsb' 16 16 ++ v ∧ SameGrBut [r3] s t ∧ SameStorage s t ∧
      t = { s with gr := t.gr, psw := { s.psw with cc := 0 }, outbox := .input cmd data :: s.outbox,
                   deviceWords := t.deviceWords, drawn := t.drawn }
    let panel := fun (k : Nat) (v : Half) =>
      cmd = BitVec.ofNat 16 k → s.chanBusy = false → Completes (.sio r1 r3 b2 d2) s (fun t =>
        delivers v t ∧ t.deviceWords = s.deviceWords ∧ t.drawn = s.drawn)
    s.dma = [] → s.psw.p = false → s.Readable a 1 2 →
    (left = 0xFF#8 ∨ left = 0x00#8 → s.chanBusy = true →
      Completes (.sio r1 r3 b2 d2) s (CcResult s 1)) ∧
    (left = 0xFF#8 → s.chanBusy = false → Completes (.sio r1 r3 b2 d2) s (fun t =>
      t = { s with psw := { s.psw with cc := 0 }, outbox := .output cmd data :: s.outbox, tse := commanded })) ∧
    panel 4 (s.tse.panelAddr.extractLsb' 0 16) ∧ panel 5 (0#8 ++ s.tse.panelAddr.extractLsb' 16 8) ∧
    panel 6 (s.tse.panelData.extractLsb' 0 16) ∧ panel 7 (s.tse.panelData.extractLsb' 16 16) ∧
    (left = 0x00#8 → s.chanBusy = false → ¬(4 ≤ cmd.toNat ∧ cmd.toNat ≤ 7) →
      (s.deviceWords = w :: ws → Completes (.sio r1 r3 b2 d2) s (fun t =>
        delivers w t ∧ t.deviceWords = ws ∧ t.drawn = s.drawn)) ∧
      (s.deviceWords = [] → Completes (.sio r1 r3 b2 d2) s (fun t =>
        ∃ v, delivers v t ∧ t.deviceWords = [] ∧ t.drawn = s.drawn + 1))) ∧
    (left ≠ 0xFF#8 → left ≠ 0x00#8 → left ∈ s.params.sioReset → Completes (.sio r1 r3 b2 d2) s (fun t =>
      t = { s with psw := { s.psw with cc := 0 }, chanBusy := false, burst := none,
                   outbox := .resetInterface :: s.outbox })) ∧
    (left ≠ 0xFF#8 → left ≠ 0x00#8 → left ∉ s.params.sioReset → left ∈ s.params.sioTest →
      Completes (.sio r1 r3 b2 d2) s (fun t =>
        t = { s with psw := { s.psw with cc := if s.chanBusy then 1 else 0 }, outbox := .testInterface :: s.outbox })) ∧
    (left ≠ 0xFF#8 → left ≠ 0x00#8 → left ∉ s.params.sioReset → left ∉ s.params.sioTest →
      exec (.sio r1 r3 b2 d2) s = .refused .sioCommandUndefined)

/-- A privileged instruction in problem state is suppressed with the privileged-operation exception: SSK and DIAGNOSE at
once, LPSW, SSM, SIO and the setting TMRS once their operand's address has passed (R296, R298, R299, R301, R305, R306,
R482); DIAGNOSE in supervisor state, whose microprogram the spec does not give, is refused (D14). -/
def Obligations.PrivilegedNeedsSupervisor : Prop :=
  ∀ (s : State) (r1 r2 r3 b : Reg) (d : Disp) (i2 : Byte),
    let a := s.ea b d
    (s.psw.p = true →
      Suppressed .privileged (.ssk r1 r2) s ∧ Suppressed .privileged (.diagnose i2 b d) s ∧
      (s.Installed a 1 → Suppressed .privileged (.ssm b d) s) ∧
      (s.Readable a 1 2 →
        Suppressed .privileged (.lpsw b d) s ∧ Suppressed .privileged (.sio r1 r3 b d) s ∧
        Suppressed .privileged (.tmrs 2 r3 b d) s ∧ Suppressed .privileged (.tmrs 3 r3 b d) s)) ∧
    (s.psw.p = false → exec (.diagnose i2 b d) s = .refused .diagnoseMicroprogram)

/-! ## Floating point -/

/-- LER, LTER, LCER, LPER, LNER, and LE with a readable operand: only the sign is changed, and the condition code is 0 for
any zero fraction (R430 to R435). DMA is supposed not to act inside an instruction with an operand in storage (log 23). -/
def Obligations.LoadsFloating : Prop :=
  ∀ (s : State) (r1 r2 x2 b2 : Reg) (d2 : Disp), fpReg r1 = true → fpReg r2 = true →
    let a := s.eax x2 b2 d2
    let v := s.fp r2
    let rest := v.extractLsb' 0 31
    let signed := fun b : Bool => BitVec.ofBool b ++ rest
    Completes (.ler r1 r2) s (FprResult s r1 v s.psw.cc) ∧
    Completes (.lter r1 r2) s (FprResult s r1 v (ccOfRat (fpNumber v))) ∧
    Completes (.lcer r1 r2) s (FprResult s r1 (signed (!v.msb)) (ccOfRat (-fpNumber v))) ∧
    Completes (.lper r1 r2) s (FprResult s r1 (signed false) (ccOfRat |fpNumber v|)) ∧
    Completes (.lner r1 r2) s (FprResult s r1 (signed true) (ccOfRat (-|fpNumber v|))) ∧
    (s.dma = [] → s.Readable a 4 4 → Completes (.le r1 x2 b2 d2) s (FprResult s r1 (s.word a) s.psw.cc))

/-- AER, SER, and AE and SE with a readable operand: the intermediate sum of the operands, one of them moved right with one
guard digit kept, normalized and cut off; nothing significant in it is a true zero or a significance exception (R436, R437,
R440, R441, R490, R491, R492). DMA is supposed not to act inside an instruction with an operand in storage (log 23). -/
def Obligations.AddsFloatingNormalized : Prop :=
  ∀ (s : State) (r1 r2 x2 b2 : Reg) (d2 : Disp), fpReg r1 = true → fpReg r2 = true →
    let a := s.eax x2 b2 d2
    let v := s.fp r1
    let ends := fun (i : Instr) (w : Word) =>
      EndsFp i s (fpGuardedSum v w) (fun z => FprResult s r1 z (ccOfRat (fpNumber z))) ∧
      (fpGuardedSum v w = 0 → EndsSignificance i s r1 (max (fpChar v) (fpChar w)))
    let negated := fun w : Word => w ^^^ 0x80000000#32
    ends (.aer r1 r2) (s.fp r2) ∧ ends (.ser r1 r2) (negated (s.fp r2)) ∧
    (s.dma = [] → s.Readable a 4 4 → ends (.ae r1 x2 b2 d2) (s.word a) ∧ ends (.se r1 x2 b2 d2) (negated (s.word a)))

/-- AUR, SUR, and AU and SU with a readable operand: the intermediate sum is cut off without normalizing, at the greater
characteristic or, after a carry, one more, which above 127 is an exponent overflow (R438, R439, R442, R443, R490, R492). DMA
is supposed not to act inside an instruction with an operand in storage (log 23). -/
def Obligations.AddsFloatingUnnormalized : Prop :=
  ∀ (s : State) (r1 r2 x2 b2 : Reg) (d2 : Disp), fpReg r1 = true → fpReg r2 = true →
    let a := s.eax x2 b2 d2
    let v := s.fp r1
    let ends := fun (i : Instr) (w : Word) =>
      let c := max (fpChar v) (fpChar w)
      let x := fpGuardedSum v w
      let result := fun z => FprResult s r1 z (ccOfRat (fpNumber z))
      (|x| < pow16 (c - 64 - 6) → EndsSignificance i s r1 c) ∧
      (pow16 (c - 64 - 6) ≤ |x| → |x| < pow16 (c - 64) →
        ∃ z, fpChar z = c ∧ FpCuts z x ∧ Completes i s (result z)) ∧
      (pow16 (c - 64) ≤ |x| → c < 127 → ∃ z, fpChar z = c + 1 ∧ FpCuts z x ∧ Completes i s (result z)) ∧
      (pow16 (c - 64) ≤ |x| → c = 127 →
        ∃ z, fpChar z = 0 ∧ FpCuts z (x / pow16 128) ∧ TrapsAfter .exponentOverflow i s (result z))
    let negated := fun w : Word => w ^^^ 0x80000000#32
    ends (.aur r1 r2) (s.fp r2) ∧ ends (.sur r1 r2) (negated (s.fp r2)) ∧
    (s.dma = [] → s.Readable a 4 4 → ends (.au r1 x2 b2 d2) (s.word a) ∧ ends (.su r1 x2 b2 d2) (negated (s.word a)))

/-- MER, DER, HER, and ME and DE with a readable operand: the exact product, quotient or half, normalized and cut off, the
condition code unchanged; a zero operand gives a true zero, a zero divisor the floating-point-divide exception (R446 to R450,
R490, R491, R493). DMA is supposed not to act inside an instruction with an operand in storage (log 23). -/
def Obligations.MultipliesAndDividesFloating : Prop :=
  ∀ (s : State) (r1 r2 x2 b2 : Reg) (d2 : Disp), fpReg r1 = true → fpReg r2 = true →
    let a := s.eax x2 b2 d2
    let v := s.fp r1
    let ends := fun (i : Instr) (x : Rat) =>
      EndsFp i s x (fun z => FprResult s r1 z s.psw.cc) ∧ (x = 0 → Completes i s (FprResult s r1 0#32 s.psw.cc))
    let multiplies := fun (i : Instr) (w : Word) => ends i (fpNumber v * fpNumber w)
    let divides := fun (i : Instr) (w : Word) =>
      (fpNumber w ≠ 0 → ends i (fpNumber v / fpNumber w)) ∧ (fpNumber w = 0 → Suppressed .floatDivide i s)
    multiplies (.mer r1 r2) (s.fp r2) ∧ divides (.der r1 r2) (s.fp r2) ∧ ends (.her r1 r2) (fpNumber (s.fp r2) / 2) ∧
    (s.dma = [] → s.Readable a 4 4 → multiplies (.me r1 x2 b2 d2) (s.word a) ∧ divides (.de r1 x2 b2 d2) (s.word a))

/-- CER, and CE with a readable operand: the sign of the intermediate difference, so that numbers of unlike form and equal
value, and all zero fractions, compare equal (R444, R445). DMA is supposed not to act inside an instruction with an operand
in storage (log 23). -/
def Obligations.ComparesFloating : Prop :=
  ∀ (s : State) (r1 r2 x2 b2 : Reg) (d2 : Disp), fpReg r1 = true → fpReg r2 = true →
    let a := s.eax x2 b2 d2
    let code := fun w : Word => ccOfRat (fpGuardedSum (s.fp r1) (w ^^^ 0x80000000#32))
    Completes (.cer r1 r2) s (CcResult s (code (s.fp r2))) ∧
    (s.dma = [] → s.Readable a 4 4 → Completes (.ce r1 x2 b2 d2) s (CcResult s (code (s.word a))))

/-! ## Exceptions of operands -/

/-- The storage operands of fixed length, those of LM, STM, TS and of the control instructions apart. One that is not installed
is an addressing exception, one that is installed but not aligned a specification exception that suppresses the instruction,
and a store into a protected block a protection exception that suppresses it; an addressing exception of a store suppresses it
too, that of a fetch ends in a state that differs in the instruction's destinations alone: the register or the part of it, the
register pair, the floating-point register, the condition code (R70, R71, R484, R485, R486; D5 for what is left, log 15 for a
pair with an odd number, D21, log 41, for the storage checks before the register number in STD, STE, M, D, LD, AD, SD, CD, LE,
CE, AE, SE, AU, SU, ME and DE). -/
def Obligations.StorageOperandsAreChecked : Prop :=
  ∀ (s : State) (r1 x2 b2 : Reg) (d2 : Disp) (i2 : Byte),
    let a := s.eax x2 b2 d2
    let a1 := s.ea b2 d2
    let stores := fun (i : Instr) (a : Addr) (n : Nat) (align : Nat) =>
      (¬s.Installed a n → Suppressed .addressing i s) ∧
      (s.Installed a n → a.toNat % align ≠ 0 → Suppressed .specification i s) ∧
      (s.Readable a n align → ¬s.Unprotected a n → Suppressed .protection i s)
    let fetches := fun (left : State → Prop) (a : Addr) (n : Nat) (align : Nat) (is : List Instr) =>
      ∀ i ∈ is, (¬s.Installed a n → TrapsAfter .addressing i s left) ∧
        (s.Installed a n → a.toNat % align ≠ 0 → Suppressed .specification i s)
    let inReg := fun t : State => SameGrBut [r1] s t ∧ t = { s with gr := t.gr, drawn := t.drawn }
    let inLo := fun t : State => inReg t ∧ (t.reg r1).extractLsb' 16 16 = (s.reg r1).extractLsb' 16 16
    let inChar := fun t : State => inReg t ∧ (t.reg r1).extractLsb' 8 24 = (s.reg r1).extractLsb' 8 24
    let inPair := fun t : State => SameGrBut [r1, r1 ||| 1#4] s t ∧ t = { s with gr := t.gr, drawn := t.drawn }
    let inFp := fun t : State => SameFpBut r1 s t ∧ t = { s with fpr := t.fpr, drawn := t.drawn }
    let inCc := fun t : State => t = { s with psw := { s.psw with cc := t.psw.cc }, drawn := t.drawn }
    let andCc := fun (p : State → Prop) (t : State) => p { t with psw := s.psw } ∧ t.psw = { s.psw with cc := t.psw.cc }
    stores (.st r1 x2 b2 d2) a 4 4 ∧ stores (.sth r1 x2 b2 d2) a 2 2 ∧ stores (.stc r1 x2 b2 d2) a 1 1 ∧
    stores (.std r1 x2 b2 d2) a 8 4 ∧ stores (.ste r1 x2 b2 d2) a 4 4 ∧ stores (.cvd r1 x2 b2 d2) a 8 8 ∧
    stores (.mvi i2 b2 d2) a1 1 1 ∧ stores (.ni i2 b2 d2) a1 1 1 ∧ stores (.oi i2 b2 d2) a1 1 1 ∧
    stores (.xi i2 b2 d2) a1 1 1 ∧
    fetches inReg a 4 4 [.l r1 x2 b2 d2] ∧
    fetches inReg a 2 2 [.lh r1 x2 b2 d2, .mh r1 x2 b2 d2, .ms r1 x2 b2 d2, .ds r1 x2 b2 d2] ∧
    fetches inReg a 8 8 [.cvb r1 x2 b2 d2] ∧ fetches inLo a 2 2 [.ls r1 x2 b2 d2] ∧
    fetches inChar a 1 1 [.ic r1 x2 b2 d2] ∧
    fetches (andCc inReg) a 4 4 [.a r1 x2 b2 d2, .s r1 x2 b2 d2, .al r1 x2 b2 d2, .sl r1 x2 b2 d2, .n r1 x2 b2 d2,
      .o r1 x2 b2 d2, .x r1 x2 b2 d2, .lt r1 x2 b2 d2] ∧
    fetches (andCc inReg) a 2 2 [.ah r1 x2 b2 d2, .sh r1 x2 b2 d2] ∧
    fetches (andCc inLo) a 2 2 [.as r1 x2 b2 d2, .ss r1 x2 b2 d2, .ns r1 x2 b2 d2, .os r1 x2 b2 d2, .xs r1 x2 b2 d2,
      .lts r1 x2 b2 d2] ∧
    fetches inPair a 4 4 [.m r1 x2 b2 d2, .d r1 x2 b2 d2] ∧ fetches inPair a 8 4 [.ld r1 x2 b2 d2] ∧
    fetches (andCc inPair) a 8 4 [.ad r1 x2 b2 d2, .sd r1 x2 b2 d2] ∧
    fetches inFp a 4 4 [.le r1 x2 b2 d2, .me r1 x2 b2 d2, .de r1 x2 b2 d2] ∧
    fetches (andCc inFp) a 4 4 [.ae r1 x2 b2 d2, .se r1 x2 b2 d2, .au r1 x2 b2 d2, .su r1 x2 b2 d2] ∧
    fetches inCc a 4 4 [.c r1 x2 b2 d2, .cl r1 x2 b2 d2, .ce r1 x2 b2 d2] ∧ fetches inCc a 8 4 [.cd r1 x2 b2 d2] ∧
    fetches inCc a 2 2 [.ch r1 x2 b2 d2, .cs r1 x2 b2 d2, .cls r1 x2 b2 d2, .tb r1 x2 b2 d2] ∧
    fetches inCc a1 1 1 [.cli i2 b2 d2, .tm i2 b2 d2]

/-- An odd register number where a pair is named, or a floating-point register number other than 0, 2, 4 and 6, is a
specification exception that suppresses the instruction, for every instruction with such a field; where the instruction has an
operand in storage, once that has passed its own checks (R111, R405, R422, R486; D21, log 41). DMA is supposed not to act
inside an instruction with an operand in storage (log 23). -/
def Obligations.RegisterNumbersAreChecked : Prop :=
  ∀ (s : State) (r1 r2 x2 b2 : Reg) (d2 : Disp),
    let a := s.eax x2 b2 d2
    let suppressed := fun is : List Instr => ∀ i ∈ is, Suppressed .specification i s
    (evenReg r1 = false →
      suppressed [.mr r1 r2, .dr r1 r2, .slda r1 b2 d2, .srda r1 b2 d2, .sldl r1 b2 d2, .srdl r1 b2 d2] ∧
      (s.dma = [] → s.Readable a 4 4 → suppressed [.m r1 x2 b2 d2, .d r1 x2 b2 d2]) ∧
      (s.dma = [] → s.Readable a 8 4 →
        suppressed [.ld r1 x2 b2 d2, .ad r1 x2 b2 d2, .sd r1 x2 b2 d2, .cd r1 x2 b2 d2]) ∧
      (s.Writable a 8 4 → suppressed [.std r1 x2 b2 d2])) ∧
    (evenReg r1 = false ∨ evenReg r2 = false →
      suppressed [.ldr r1 r2, .lcdr r1 r2, .adr r1 r2, .sdr r1 r2, .cdr r1 r2]) ∧
    (fpReg r1 = false ∨ fpReg r2 = false →
      suppressed [.ler r1 r2, .lter r1 r2, .lcer r1 r2, .lper r1 r2, .lner r1 r2, .her r1 r2, .cer r1 r2, .aer r1 r2,
        .ser r1 r2, .aur r1 r2, .sur r1 r2, .mer r1 r2, .der r1 r2]) ∧
    (fpReg r1 = false →
      (s.dma = [] → s.Readable a 4 4 →
        suppressed [.le r1 x2 b2 d2, .ce r1 x2 b2 d2, .ae r1 x2 b2 d2, .se r1 x2 b2 d2, .au r1 x2 b2 d2, .su r1 x2 b2 d2,
          .me r1 x2 b2 d2, .de r1 x2 b2 d2]) ∧
      (s.Writable a 4 4 → suppressed [.ste r1 x2 b2 d2]))

/-! ## Promises of the whole machine -/

/-- No instruction in problem state changes the system mask, PSW bits 8-15, a storage key, a timer, the channel or the test
support equipment, unless it ends in a program or supervisor-call interruption, after which the PSW is the class's new PSW
and only the key of block 0 has changed (R290, R470, R472, R474, R482, R541; that both classes set that key to 01 is the
spec's own decision D7, log 41). -/
def Obligations.ProblemStateIsConfined : Prop :=
  ∀ (i : Instr) (s t : State), s.psw.p = true → exec i s = .next t →
    t.rtc = s.rtc ∧ t.intimer = s.intimer ∧ t.pendTimer = s.pendTimer ∧ t.pendKey = s.pendKey ∧ t.pendIo = s.pendIo ∧
    t.chanBusy = s.chanBusy ∧ t.burst = s.burst ∧ t.tse = s.tse ∧ t.outbox = s.outbox ∧
    t.deviceWords = s.deviceWords ∧ t.env = s.env ∧ t.params = s.params ∧
    ((t.keys = s.keys ∧ t.mode = s.mode ∧ t.psw.sm = s.psw.sm ∧ t.psw.key = s.psw.key ∧ t.psw.a = s.psw.a ∧
        t.psw.m = s.psw.m ∧ t.psw.w = s.psw.w ∧ t.psw.p = s.psw.p) ∨
      (t.key 0 = 1#2 ∧ (∀ b, b ≠ 0 → t.key b = s.key b) ∧ t.mode = .operating ∧
        (t.psw = Psw.unpack (t.dword 96) ∨ t.psw = Psw.unpack (t.dword 104))))

/-- No instruction changes a byte of a block that is protected against the CPU, but for the old PSW that a program or
supervisor-call interruption stores at 40 or 32, and but for a DMA store into the byte's halfword that falls into the
instruction and that the block's second key bit admits (R71, R73, R90, R484; D6, D8). -/
def Obligations.ProtectedStorageIsKept : Prop :=
  ∀ (i : Instr) (s t : State), exec i s = .next t →
    ∀ x : Addr, s.cpuProtected x = true → s.DmaSpares x ∨ s.dmaProtected x = true → x.toNat < 32 ∨ 48 ≤ x.toNat →
      t.byte x = s.byte x

/-! ## The channel, direct memory access and the operator -/

/-- A device's request for one halfword of buffered input or output, with a positive count in force, whatever the system mask
and the pending requests: the halfword moves between the device and the address in the device's table entry, the entry's
address goes up by two and its count down by one, ZERO COUNT is signalled when it reaches zero, the status word is cleared, and
no other byte of storage changes; a zero count moves nothing and raises an I/O request that names the device (R291, R521, R525,
R526, R528, R529). The statement is for the layout that `State.reset` names (log 1), for a data halfword, a table entry and a
status word that do not overlap, and without DMA in between (log 23). The table address from the low-order 20 bits of the word
at 72 (D13), the unchecked stores into the table and the status word (D6) and the count going down toward zero (D31, R526) are
the spec's own choices (log 41), and so are the four fields of an entry (D30, log 1); the bits of the zero-count code that the
manual does not give are free (log 37). -/
def Obligations.BufferedTransferMovesHalfword : Prop :=
  ∀ (s : State) (w : Half) (p : Payload) (r : List Move),
    let d := w.extractLsb' 4 4
    let e := (s.word 72).extractLsb' 0 20 + d.setWidth 20 * 8#20
    let inA := (s.half e).setWidth 20
    let outA := (s.half (e + 4#20)).setWidth 20
    let apart := fun (x : Addr) (m : Nat) (y : Addr) (n : Nat) =>
      ∀ j k, j < m → k < n → x + BitVec.ofNat 20 j ≠ y + BitVec.ofNat 20 k
    let outside := fun (x a : Addr) (n : Nat) => ∀ k, k < n → x ≠ a + BitVec.ofNat 20 k
    s.params.wf = true → s.params.layout = Params.standard.layout → s.mode = .operating → s.env = .request w p :: r →
    s.dma = [] → s.chanBusy = false → s.burst = none → p.fails = false →
    w.getLsbD 15 = false → w.getLsbD 13 = false → w.extractLsb' 0 4 ≠ 0#4 →
    s.Installed e 8 → apart e 8 66 2 →
    (w.getLsbD 14 = true → 1 ≤ (s.half (e + 2#20)).toInt → s.Writable inA 2 2 → apart e 8 inA 2 → apart inA 2 66 2 →
      ∃ t, step s = .next t ∧ t.half inA = p.data ∧ t.half e = s.half e + 2#16 ∧
        t.half (e + 2#20) = s.half (e + 2#20) - 1#16 ∧ t.half 66 = 0#16 ∧
        (∀ x, outside x inA 2 → outside x e 4 → outside x 66 2 → t.byte x = s.byte x) ∧
        t = { s with env := r, mem := t.mem, outbox := t.outbox } ∧
        t.outbox = (if s.half (e + 2#20) = 1#16 then .zeroCount d :: s.outbox else s.outbox)) ∧
    (w.getLsbD 14 = false → 1 ≤ (s.half (e + 6#20)).toInt → s.Readable outA 2 2 → apart outA 2 66 2 →
      ∃ t, step s = .next t ∧ t.half (e + 4#20) = s.half (e + 4#20) + 2#16 ∧
        t.half (e + 6#20) = s.half (e + 6#20) - 1#16 ∧ t.half 66 = 0#16 ∧
        (∀ x, outside x (e + 4#20) 4 → outside x 66 2 → t.byte x = s.byte x) ∧
        t = { s with env := r, mem := t.mem, outbox := t.outbox } ∧
        t.outbox = (if s.half (e + 6#20) = 1#16 then .zeroCount d :: .buffered d (s.half outA) :: s.outbox
                    else .buffered d (s.half outA) :: s.outbox)) ∧
    (s.half (if w.getLsbD 14 then e + 2#20 else e + 6#20) = 0#16 → s.pendKey = false → s.pendIo = none →
      ∃ t v, step s = .next t ∧ t.pendIo = some v ∧ v.extractLsb' 4 4 = d ∧ v.getLsbD 14 = false ∧
        t = { s with env := r, pendIo := t.pendIo, drawn := t.drawn })

/-- A DMA store reaches installed storage whose block is not protected against DMA, whatever the CPU's key bit, and changes
nothing else; a DMA read changes no storage. Inside an instruction it falls between two halfword accesses: a word load can
see a store into its second halfword and miss one into its first, which is then in storage after it; AND with an immediate
byte overwrites a store between its fetch and its store, but not the other byte of that halfword; TEST AND SET leaves ones
over whatever DMA stored before its one access, whose byte gives the condition code (R73, R78, R90, R302, R517, R518; D8, log
23; that DMA reaches storage in soft stop too, which the first part says with every other mode but a hang, is the model's
choice, R517 over R551, log 57). -/
def Obligations.DmaObeysItsOwnKey : Prop :=
  (∀ (s : State) (h : BitVec 19) (w : Half) (r : List Move),
    let a : Addr := h ++ 0#1
    s.params.wf = true → s.mode ≠ .hung →
    (s.env = .dma (.write h w) :: r → ∃ t, step s = .next t ∧ SameStorageBut a 2 s t ∧
      t = { s with env := r, mem := t.mem } ∧
      (s.Installed a 2 → (s.key (a.toNat / 1024)).getLsbD 0 = false → t.half a = w) ∧
      (¬s.Installed a 2 ∨ (s.key (a.toNat / 1024)).getLsbD 0 = true → t.mem = s.mem)) ∧
    (s.env = .dma (.read h) :: r → ∃ t, step s = .next t ∧ t = { s with env := r, dmaOut := t.dmaOut } ∧
      (s.Installed a 2 → t.dmaOut = s.half a :: s.dmaOut) ∧ (¬s.Installed a 2 → t.dmaOut = s.dmaOut))) ∧
  (∀ (s : State) (h : BitVec 19) (w : Half) (r1 x2 b2 : Reg) (d2 : Disp) (i2 : Byte),
    let a := s.eax x2 b2 d2
    let c := s.ea b2 d2
    let dmaFrame := fun (b : Addr) (t : State) => SameStorageBut b 2 s t ∧
      t = { s with gr := t.gr, psw := { s.psw with cc := t.psw.cc }, mem := t.mem, dma := [] }
    (s.dma = [[], [.write h w]] → s.Readable a 4 4 → (s.key (a.toNat / 1024)).getLsbD 0 = false →
      (h ++ 0#1 = a + 2#20 → Completes (.l r1 x2 b2 d2) s (fun t =>
        t.reg r1 = s.half a ++ w ∧ t.half (a + 2#20) = w ∧ t.psw = s.psw ∧ SameGrBut [r1] s t ∧ dmaFrame (a + 2#20) t)) ∧
      (h ++ 0#1 = a → Completes (.l r1 x2 b2 d2) s (fun t =>
        t.reg r1 = s.word a ∧ t.half a = w ∧ t.psw = s.psw ∧ SameGrBut [r1] s t ∧ dmaFrame a t))) ∧
    (s.dma = [[], [.write h w]] → s.Installed c 2 → s.Unprotected c 1 → (s.key (c.toNat / 1024)).getLsbD 0 = false →
      h ++ 0#1 = c → Completes (.ni i2 b2 d2) s (fun t =>
        t.byte c = s.byte c &&& i2 ∧ t.byte (c + 1#20) = w.extractLsb' 0 8 ∧
        t.psw.cc = (if s.byte c &&& i2 = 0#8 then 0 else 1) ∧ SameGrBut [] s t ∧ dmaFrame c t)) ∧
    (s.dma = [[.write h w]] → s.Installed c 2 → s.Unprotected c 1 → (s.key (c.toNat / 1024)).getLsbD 0 = false →
      h ++ 0#1 = c → Completes (.ts b2 d2) s (fun t =>
        t.byte c = 0xFF#8 ∧ t.byte (c + 1#20) = w.extractLsb' 0 8 ∧ t.psw.cc = (if w.msb then 1 else 0) ∧
        SameGrBut [] s t ∧ dmaFrame c t)))

/-- The operator: STOP in operation needs system mask bit 0 and is else dropped; the interrupt key makes its request pending
and holds the channel; in soft stop START resumes, PSW RESTART makes the double word at 0 current, and MEMORY CLEAR leaves
every byte and every key zero, or, where it meets an error at a halfword, hangs with the storage before that halfword zero,
any value in it and the rest and the keys as before (R508, R552, R555, R556; the spec's own decisions, log 41, are D32, that
a STOP under a zero mask is dropped, D29, the held channel, and D6, that MEMORY CLEAR consults no key; log 28 for the keys
after an error). -/
def Obligations.OperatorFunctions : Prop :=
  ∀ (s : State) (p : Payload) (r : List Move),
    let s' := { s with env := r }
    s.params.wf = true → s.chanBusy = false → s.pendKey = false → s.pendIo = none →
    (s.mode = .operating → s.env = .request 0x8001#16 p :: r →
      step s = .next (if s.maskIo then { s' with mode := .softStop } else s')) ∧
    (s.mode = .operating → s.env = .request 0x8007#16 p :: r →
      step s = .next { s' with pendKey := true, chanBusy := true }) ∧
    (s.mode = .softStop → s.env = .request 0x8006#16 p :: r → step s = .next { s' with mode := .operating }) ∧
    (s.mode = .softStop → s.env = .request 0x8009#16 p :: r →
      step s = .next { s' with mode := .operating, psw := Psw.unpack (s.dword 0) }) ∧
    (s.mode = .softStop → s.env = .request 0x800A#16 p :: r →
      (p.clearFails = none →
        ∃ t, step s = .next t ∧ t.mode = .softStop ∧ (∀ x : Addr, t.byte x = 0#8) ∧ (∀ b, t.key b = 0#2) ∧
          t = { s' with mem := t.mem, keys := t.keys }) ∧
      (∀ h w, p.clearFails = some (h, w) → s.Installed (h ++ 0#1) 2 →
        ∃ t, step s = .next t ∧ t.mode = .hung ∧ (∀ x : Addr, x.toNat < 2 * h.toNat → t.byte x = 0#8) ∧
          t.half (h ++ 0#1) = w ∧ (∀ x : Addr, 2 * h.toNat + 2 ≤ x.toNat → t.byte x = s.byte x) ∧
          t = { s' with mode := .hung, mem := t.mem }))
end

