-- ==== Sys2Proof/Laws/State.lean ====
section
/-! SUPPORT.
One lemma per field and per update of the state: what an update leaves as it was.
-/
namespace Sys2Proof.Machine

/-! ## `State.setReg` -/

@[simp] theorem State.setReg_params (s : State) (r : Reg) (v : Word) : (s.setReg r v).params = s.params := rfl
@[simp] theorem State.setReg_fpr (s : State) (r : Reg) (v : Word) : (s.setReg r v).fpr = s.fpr := rfl
@[simp] theorem State.setReg_psw (s : State) (r : Reg) (v : Word) : (s.setReg r v).psw = s.psw := rfl
@[simp] theorem State.setReg_ilc (s : State) (r : Reg) (v : Word) : (s.setReg r v).ilc = s.ilc := rfl
@[simp] theorem State.setReg_inExecute (s : State) (r : Reg) (v : Word) : (s.setReg r v).inExecute = s.inExecute := rfl
@[simp] theorem State.setReg_mem (s : State) (r : Reg) (v : Word) : (s.setReg r v).mem = s.mem := rfl
@[simp] theorem State.setReg_keys (s : State) (r : Reg) (v : Word) : (s.setReg r v).keys = s.keys := rfl
@[simp] theorem State.setReg_rtc (s : State) (r : Reg) (v : Word) : (s.setReg r v).rtc = s.rtc := rfl
@[simp] theorem State.setReg_intimer (s : State) (r : Reg) (v : Word) : (s.setReg r v).intimer = s.intimer := rfl
@[simp] theorem State.setReg_pendTimer (s : State) (r : Reg) (v : Word) : (s.setReg r v).pendTimer = s.pendTimer := rfl
@[simp] theorem State.setReg_pendKey (s : State) (r : Reg) (v : Word) : (s.setReg r v).pendKey = s.pendKey := rfl
@[simp] theorem State.setReg_pendIo (s : State) (r : Reg) (v : Word) : (s.setReg r v).pendIo = s.pendIo := rfl
@[simp] theorem State.setReg_chanBusy (s : State) (r : Reg) (v : Word) : (s.setReg r v).chanBusy = s.chanBusy := rfl
@[simp] theorem State.setReg_mode (s : State) (r : Reg) (v : Word) : (s.setReg r v).mode = s.mode := rfl
@[simp] theorem State.setReg_burst (s : State) (r : Reg) (v : Word) : (s.setReg r v).burst = s.burst := rfl
@[simp] theorem State.setReg_tse (s : State) (r : Reg) (v : Word) : (s.setReg r v).tse = s.tse := rfl
@[simp] theorem State.setReg_deviceWords (s : State) (r : Reg) (v : Word) : (s.setReg r v).deviceWords = s.deviceWords := rfl
@[simp] theorem State.setReg_outbox (s : State) (r : Reg) (v : Word) : (s.setReg r v).outbox = s.outbox := rfl
@[simp] theorem State.setReg_env (s : State) (r : Reg) (v : Word) : (s.setReg r v).env = s.env := rfl
@[simp] theorem State.setReg_dma (s : State) (r : Reg) (v : Word) : (s.setReg r v).dma = s.dma := rfl
@[simp] theorem State.setReg_dmaOut (s : State) (r : Reg) (v : Word) : (s.setReg r v).dmaOut = s.dmaOut := rfl
@[simp] theorem State.setReg_drawn (s : State) (r : Reg) (v : Word) : (s.setReg r v).drawn = s.drawn := rfl

@[simp] theorem State.setReg_fp (s : State) (r : Reg) (v : Word) (q : Reg) : (s.setReg r v).fp q = s.fp q := rfl
@[simp] theorem State.setReg_byte (s : State) (r : Reg) (v : Word) (x : Addr) : (s.setReg r v).byte x = s.byte x := rfl
@[simp] theorem State.setReg_key (s : State) (r : Reg) (v : Word) (blk : Nat) : (s.setReg r v).key blk = s.key blk := rfl
@[simp] theorem State.setReg_available (s : State) (r : Reg) (v : Word) (x : Addr) : (s.setReg r v).available x = s.available x := rfl

/-! ## `State.setLo` -/

@[simp] theorem State.setLo_params (s : State) (r : Reg) (v : Half) : (s.setLo r v).params = s.params := rfl
@[simp] theorem State.setLo_fpr (s : State) (r : Reg) (v : Half) : (s.setLo r v).fpr = s.fpr := rfl
@[simp] theorem State.setLo_psw (s : State) (r : Reg) (v : Half) : (s.setLo r v).psw = s.psw := rfl
@[simp] theorem State.setLo_ilc (s : State) (r : Reg) (v : Half) : (s.setLo r v).ilc = s.ilc := rfl
@[simp] theorem State.setLo_inExecute (s : State) (r : Reg) (v : Half) : (s.setLo r v).inExecute = s.inExecute := rfl
@[simp] theorem State.setLo_mem (s : State) (r : Reg) (v : Half) : (s.setLo r v).mem = s.mem := rfl
@[simp] theorem State.setLo_keys (s : State) (r : Reg) (v : Half) : (s.setLo r v).keys = s.keys := rfl
@[simp] theorem State.setLo_rtc (s : State) (r : Reg) (v : Half) : (s.setLo r v).rtc = s.rtc := rfl
@[simp] theorem State.setLo_intimer (s : State) (r : Reg) (v : Half) : (s.setLo r v).intimer = s.intimer := rfl
@[simp] theorem State.setLo_pendTimer (s : State) (r : Reg) (v : Half) : (s.setLo r v).pendTimer = s.pendTimer := rfl
@[simp] theorem State.setLo_pendKey (s : State) (r : Reg) (v : Half) : (s.setLo r v).pendKey = s.pendKey := rfl
@[simp] theorem State.setLo_pendIo (s : State) (r : Reg) (v : Half) : (s.setLo r v).pendIo = s.pendIo := rfl
@[simp] theorem State.setLo_chanBusy (s : State) (r : Reg) (v : Half) : (s.setLo r v).chanBusy = s.chanBusy := rfl
@[simp] theorem State.setLo_mode (s : State) (r : Reg) (v : Half) : (s.setLo r v).mode = s.mode := rfl
@[simp] theorem State.setLo_burst (s : State) (r : Reg) (v : Half) : (s.setLo r v).burst = s.burst := rfl
@[simp] theorem State.setLo_tse (s : State) (r : Reg) (v : Half) : (s.setLo r v).tse = s.tse := rfl
@[simp] theorem State.setLo_deviceWords (s : State) (r : Reg) (v : Half) : (s.setLo r v).deviceWords = s.deviceWords := rfl
@[simp] theorem State.setLo_outbox (s : State) (r : Reg) (v : Half) : (s.setLo r v).outbox = s.outbox := rfl
@[simp] theorem State.setLo_env (s : State) (r : Reg) (v : Half) : (s.setLo r v).env = s.env := rfl
@[simp] theorem State.setLo_dma (s : State) (r : Reg) (v : Half) : (s.setLo r v).dma = s.dma := rfl
@[simp] theorem State.setLo_dmaOut (s : State) (r : Reg) (v : Half) : (s.setLo r v).dmaOut = s.dmaOut := rfl
@[simp] theorem State.setLo_drawn (s : State) (r : Reg) (v : Half) : (s.setLo r v).drawn = s.drawn := rfl

@[simp] theorem State.setLo_fp (s : State) (r : Reg) (v : Half) (q : Reg) : (s.setLo r v).fp q = s.fp q := rfl
@[simp] theorem State.setLo_byte (s : State) (r : Reg) (v : Half) (x : Addr) : (s.setLo r v).byte x = s.byte x := rfl
@[simp] theorem State.setLo_key (s : State) (r : Reg) (v : Half) (blk : Nat) : (s.setLo r v).key blk = s.key blk := rfl
@[simp] theorem State.setLo_available (s : State) (r : Reg) (v : Half) (x : Addr) : (s.setLo r v).available x = s.available x := rfl

/-! ## `State.setPair` -/

@[simp] theorem State.setPair_params (s : State) (r : Reg) (v : Dword) : (s.setPair r v).params = s.params := rfl
@[simp] theorem State.setPair_fpr (s : State) (r : Reg) (v : Dword) : (s.setPair r v).fpr = s.fpr := rfl
@[simp] theorem State.setPair_psw (s : State) (r : Reg) (v : Dword) : (s.setPair r v).psw = s.psw := rfl
@[simp] theorem State.setPair_ilc (s : State) (r : Reg) (v : Dword) : (s.setPair r v).ilc = s.ilc := rfl
@[simp] theorem State.setPair_inExecute (s : State) (r : Reg) (v : Dword) : (s.setPair r v).inExecute = s.inExecute := rfl
@[simp] theorem State.setPair_mem (s : State) (r : Reg) (v : Dword) : (s.setPair r v).mem = s.mem := rfl
@[simp] theorem State.setPair_keys (s : State) (r : Reg) (v : Dword) : (s.setPair r v).keys = s.keys := rfl
@[simp] theorem State.setPair_rtc (s : State) (r : Reg) (v : Dword) : (s.setPair r v).rtc = s.rtc := rfl
@[simp] theorem State.setPair_intimer (s : State) (r : Reg) (v : Dword) : (s.setPair r v).intimer = s.intimer := rfl
@[simp] theorem State.setPair_pendTimer (s : State) (r : Reg) (v : Dword) : (s.setPair r v).pendTimer = s.pendTimer := rfl
@[simp] theorem State.setPair_pendKey (s : State) (r : Reg) (v : Dword) : (s.setPair r v).pendKey = s.pendKey := rfl
@[simp] theorem State.setPair_pendIo (s : State) (r : Reg) (v : Dword) : (s.setPair r v).pendIo = s.pendIo := rfl
@[simp] theorem State.setPair_chanBusy (s : State) (r : Reg) (v : Dword) : (s.setPair r v).chanBusy = s.chanBusy := rfl
@[simp] theorem State.setPair_mode (s : State) (r : Reg) (v : Dword) : (s.setPair r v).mode = s.mode := rfl
@[simp] theorem State.setPair_burst (s : State) (r : Reg) (v : Dword) : (s.setPair r v).burst = s.burst := rfl
@[simp] theorem State.setPair_tse (s : State) (r : Reg) (v : Dword) : (s.setPair r v).tse = s.tse := rfl
@[simp] theorem State.setPair_deviceWords (s : State) (r : Reg) (v : Dword) : (s.setPair r v).deviceWords = s.deviceWords := rfl
@[simp] theorem State.setPair_outbox (s : State) (r : Reg) (v : Dword) : (s.setPair r v).outbox = s.outbox := rfl
@[simp] theorem State.setPair_env (s : State) (r : Reg) (v : Dword) : (s.setPair r v).env = s.env := rfl
@[simp] theorem State.setPair_dma (s : State) (r : Reg) (v : Dword) : (s.setPair r v).dma = s.dma := rfl
@[simp] theorem State.setPair_dmaOut (s : State) (r : Reg) (v : Dword) : (s.setPair r v).dmaOut = s.dmaOut := rfl
@[simp] theorem State.setPair_drawn (s : State) (r : Reg) (v : Dword) : (s.setPair r v).drawn = s.drawn := rfl

@[simp] theorem State.setPair_fp (s : State) (r : Reg) (v : Dword) (q : Reg) : (s.setPair r v).fp q = s.fp q := rfl
@[simp] theorem State.setPair_byte (s : State) (r : Reg) (v : Dword) (x : Addr) : (s.setPair r v).byte x = s.byte x := rfl
@[simp] theorem State.setPair_key (s : State) (r : Reg) (v : Dword) (blk : Nat) : (s.setPair r v).key blk = s.key blk := rfl
@[simp] theorem State.setPair_available (s : State) (r : Reg) (v : Dword) (x : Addr) : (s.setPair r v).available x = s.available x := rfl

/-! ## `State.setFp` -/

@[simp] theorem State.setFp_params (s : State) (r : Reg) (v : Word) : (s.setFp r v).params = s.params := rfl
@[simp] theorem State.setFp_gr (s : State) (r : Reg) (v : Word) : (s.setFp r v).gr = s.gr := rfl
@[simp] theorem State.setFp_psw (s : State) (r : Reg) (v : Word) : (s.setFp r v).psw = s.psw := rfl
@[simp] theorem State.setFp_ilc (s : State) (r : Reg) (v : Word) : (s.setFp r v).ilc = s.ilc := rfl
@[simp] theorem State.setFp_inExecute (s : State) (r : Reg) (v : Word) : (s.setFp r v).inExecute = s.inExecute := rfl
@[simp] theorem State.setFp_mem (s : State) (r : Reg) (v : Word) : (s.setFp r v).mem = s.mem := rfl
@[simp] theorem State.setFp_keys (s : State) (r : Reg) (v : Word) : (s.setFp r v).keys = s.keys := rfl
@[simp] theorem State.setFp_rtc (s : State) (r : Reg) (v : Word) : (s.setFp r v).rtc = s.rtc := rfl
@[simp] theorem State.setFp_intimer (s : State) (r : Reg) (v : Word) : (s.setFp r v).intimer = s.intimer := rfl
@[simp] theorem State.setFp_pendTimer (s : State) (r : Reg) (v : Word) : (s.setFp r v).pendTimer = s.pendTimer := rfl
@[simp] theorem State.setFp_pendKey (s : State) (r : Reg) (v : Word) : (s.setFp r v).pendKey = s.pendKey := rfl
@[simp] theorem State.setFp_pendIo (s : State) (r : Reg) (v : Word) : (s.setFp r v).pendIo = s.pendIo := rfl
@[simp] theorem State.setFp_chanBusy (s : State) (r : Reg) (v : Word) : (s.setFp r v).chanBusy = s.chanBusy := rfl
@[simp] theorem State.setFp_mode (s : State) (r : Reg) (v : Word) : (s.setFp r v).mode = s.mode := rfl
@[simp] theorem State.setFp_burst (s : State) (r : Reg) (v : Word) : (s.setFp r v).burst = s.burst := rfl
@[simp] theorem State.setFp_tse (s : State) (r : Reg) (v : Word) : (s.setFp r v).tse = s.tse := rfl
@[simp] theorem State.setFp_deviceWords (s : State) (r : Reg) (v : Word) : (s.setFp r v).deviceWords = s.deviceWords := rfl
@[simp] theorem State.setFp_outbox (s : State) (r : Reg) (v : Word) : (s.setFp r v).outbox = s.outbox := rfl
@[simp] theorem State.setFp_env (s : State) (r : Reg) (v : Word) : (s.setFp r v).env = s.env := rfl
@[simp] theorem State.setFp_dma (s : State) (r : Reg) (v : Word) : (s.setFp r v).dma = s.dma := rfl
@[simp] theorem State.setFp_dmaOut (s : State) (r : Reg) (v : Word) : (s.setFp r v).dmaOut = s.dmaOut := rfl
@[simp] theorem State.setFp_drawn (s : State) (r : Reg) (v : Word) : (s.setFp r v).drawn = s.drawn := rfl

@[simp] theorem State.setFp_reg (s : State) (r : Reg) (v : Word) (q : Reg) : (s.setFp r v).reg q = s.reg q := rfl
@[simp] theorem State.setFp_byte (s : State) (r : Reg) (v : Word) (x : Addr) : (s.setFp r v).byte x = s.byte x := rfl
@[simp] theorem State.setFp_key (s : State) (r : Reg) (v : Word) (blk : Nat) : (s.setFp r v).key blk = s.key blk := rfl
@[simp] theorem State.setFp_available (s : State) (r : Reg) (v : Word) (x : Addr) : (s.setFp r v).available x = s.available x := rfl

/-! ## `State.setCc` -/

@[simp] theorem State.setCc_params (s : State) (c : Cc) : (s.setCc c).params = s.params := rfl
@[simp] theorem State.setCc_gr (s : State) (c : Cc) : (s.setCc c).gr = s.gr := rfl
@[simp] theorem State.setCc_fpr (s : State) (c : Cc) : (s.setCc c).fpr = s.fpr := rfl
@[simp] theorem State.setCc_ilc (s : State) (c : Cc) : (s.setCc c).ilc = s.ilc := rfl
@[simp] theorem State.setCc_inExecute (s : State) (c : Cc) : (s.setCc c).inExecute = s.inExecute := rfl
@[simp] theorem State.setCc_mem (s : State) (c : Cc) : (s.setCc c).mem = s.mem := rfl
@[simp] theorem State.setCc_keys (s : State) (c : Cc) : (s.setCc c).keys = s.keys := rfl
@[simp] theorem State.setCc_rtc (s : State) (c : Cc) : (s.setCc c).rtc = s.rtc := rfl
@[simp] theorem State.setCc_intimer (s : State) (c : Cc) : (s.setCc c).intimer = s.intimer := rfl
@[simp] theorem State.setCc_pendTimer (s : State) (c : Cc) : (s.setCc c).pendTimer = s.pendTimer := rfl
@[simp] theorem State.setCc_pendKey (s : State) (c : Cc) : (s.setCc c).pendKey = s.pendKey := rfl
@[simp] theorem State.setCc_pendIo (s : State) (c : Cc) : (s.setCc c).pendIo = s.pendIo := rfl
@[simp] theorem State.setCc_chanBusy (s : State) (c : Cc) : (s.setCc c).chanBusy = s.chanBusy := rfl
@[simp] theorem State.setCc_mode (s : State) (c : Cc) : (s.setCc c).mode = s.mode := rfl
@[simp] theorem State.setCc_burst (s : State) (c : Cc) : (s.setCc c).burst = s.burst := rfl
@[simp] theorem State.setCc_tse (s : State) (c : Cc) : (s.setCc c).tse = s.tse := rfl
@[simp] theorem State.setCc_deviceWords (s : State) (c : Cc) : (s.setCc c).deviceWords = s.deviceWords := rfl
@[simp] theorem State.setCc_outbox (s : State) (c : Cc) : (s.setCc c).outbox = s.outbox := rfl
@[simp] theorem State.setCc_env (s : State) (c : Cc) : (s.setCc c).env = s.env := rfl
@[simp] theorem State.setCc_dma (s : State) (c : Cc) : (s.setCc c).dma = s.dma := rfl
@[simp] theorem State.setCc_dmaOut (s : State) (c : Cc) : (s.setCc c).dmaOut = s.dmaOut := rfl
@[simp] theorem State.setCc_drawn (s : State) (c : Cc) : (s.setCc c).drawn = s.drawn := rfl

@[simp] theorem State.setCc_reg (s : State) (c : Cc) (q : Reg) : (s.setCc c).reg q = s.reg q := rfl
@[simp] theorem State.setCc_fp (s : State) (c : Cc) (q : Reg) : (s.setCc c).fp q = s.fp q := rfl
@[simp] theorem State.setCc_byte (s : State) (c : Cc) (x : Addr) : (s.setCc c).byte x = s.byte x := rfl
@[simp] theorem State.setCc_key (s : State) (c : Cc) (blk : Nat) : (s.setCc c).key blk = s.key blk := rfl
@[simp] theorem State.setCc_available (s : State) (c : Cc) (x : Addr) : (s.setCc c).available x = s.available x := rfl

/-! ## `State.setIa` -/

@[simp] theorem State.setIa_params (s : State) (a : Addr) : (s.setIa a).params = s.params := rfl
@[simp] theorem State.setIa_gr (s : State) (a : Addr) : (s.setIa a).gr = s.gr := rfl
@[simp] theorem State.setIa_fpr (s : State) (a : Addr) : (s.setIa a).fpr = s.fpr := rfl
@[simp] theorem State.setIa_ilc (s : State) (a : Addr) : (s.setIa a).ilc = s.ilc := rfl
@[simp] theorem State.setIa_inExecute (s : State) (a : Addr) : (s.setIa a).inExecute = s.inExecute := rfl
@[simp] theorem State.setIa_mem (s : State) (a : Addr) : (s.setIa a).mem = s.mem := rfl
@[simp] theorem State.setIa_keys (s : State) (a : Addr) : (s.setIa a).keys = s.keys := rfl
@[simp] theorem State.setIa_rtc (s : State) (a : Addr) : (s.setIa a).rtc = s.rtc := rfl
@[simp] theorem State.setIa_intimer (s : State) (a : Addr) : (s.setIa a).intimer = s.intimer := rfl
@[simp] theorem State.setIa_pendTimer (s : State) (a : Addr) : (s.setIa a).pendTimer = s.pendTimer := rfl
@[simp] theorem State.setIa_pendKey (s : State) (a : Addr) : (s.setIa a).pendKey = s.pendKey := rfl
@[simp] theorem State.setIa_pendIo (s : State) (a : Addr) : (s.setIa a).pendIo = s.pendIo := rfl
@[simp] theorem State.setIa_chanBusy (s : State) (a : Addr) : (s.setIa a).chanBusy = s.chanBusy := rfl
@[simp] theorem State.setIa_mode (s : State) (a : Addr) : (s.setIa a).mode = s.mode := rfl
@[simp] theorem State.setIa_burst (s : State) (a : Addr) : (s.setIa a).burst = s.burst := rfl
@[simp] theorem State.setIa_tse (s : State) (a : Addr) : (s.setIa a).tse = s.tse := rfl
@[simp] theorem State.setIa_deviceWords (s : State) (a : Addr) : (s.setIa a).deviceWords = s.deviceWords := rfl
@[simp] theorem State.setIa_outbox (s : State) (a : Addr) : (s.setIa a).outbox = s.outbox := rfl
@[simp] theorem State.setIa_env (s : State) (a : Addr) : (s.setIa a).env = s.env := rfl
@[simp] theorem State.setIa_dma (s : State) (a : Addr) : (s.setIa a).dma = s.dma := rfl
@[simp] theorem State.setIa_dmaOut (s : State) (a : Addr) : (s.setIa a).dmaOut = s.dmaOut := rfl
@[simp] theorem State.setIa_drawn (s : State) (a : Addr) : (s.setIa a).drawn = s.drawn := rfl

@[simp] theorem State.setIa_reg (s : State) (a : Addr) (q : Reg) : (s.setIa a).reg q = s.reg q := rfl
@[simp] theorem State.setIa_fp (s : State) (a : Addr) (q : Reg) : (s.setIa a).fp q = s.fp q := rfl
@[simp] theorem State.setIa_byte (s : State) (a : Addr) (x : Addr) : (s.setIa a).byte x = s.byte x := rfl
@[simp] theorem State.setIa_key (s : State) (a : Addr) (blk : Nat) : (s.setIa a).key blk = s.key blk := rfl
@[simp] theorem State.setIa_available (s : State) (a : Addr) (x : Addr) : (s.setIa a).available x = s.available x := rfl

/-! ## `State.setSm` -/

@[simp] theorem State.setSm_params (s : State) (m : Byte) : (s.setSm m).params = s.params := rfl
@[simp] theorem State.setSm_gr (s : State) (m : Byte) : (s.setSm m).gr = s.gr := rfl
@[simp] theorem State.setSm_fpr (s : State) (m : Byte) : (s.setSm m).fpr = s.fpr := rfl
@[simp] theorem State.setSm_ilc (s : State) (m : Byte) : (s.setSm m).ilc = s.ilc := rfl
@[simp] theorem State.setSm_inExecute (s : State) (m : Byte) : (s.setSm m).inExecute = s.inExecute := rfl
@[simp] theorem State.setSm_mem (s : State) (m : Byte) : (s.setSm m).mem = s.mem := rfl
@[simp] theorem State.setSm_keys (s : State) (m : Byte) : (s.setSm m).keys = s.keys := rfl
@[simp] theorem State.setSm_rtc (s : State) (m : Byte) : (s.setSm m).rtc = s.rtc := rfl
@[simp] theorem State.setSm_intimer (s : State) (m : Byte) : (s.setSm m).intimer = s.intimer := rfl
@[simp] theorem State.setSm_pendTimer (s : State) (m : Byte) : (s.setSm m).pendTimer = s.pendTimer := rfl
@[simp] theorem State.setSm_pendKey (s : State) (m : Byte) : (s.setSm m).pendKey = s.pendKey := rfl
@[simp] theorem State.setSm_pendIo (s : State) (m : Byte) : (s.setSm m).pendIo = s.pendIo := rfl
@[simp] theorem State.setSm_chanBusy (s : State) (m : Byte) : (s.setSm m).chanBusy = s.chanBusy := rfl
@[simp] theorem State.setSm_mode (s : State) (m : Byte) : (s.setSm m).mode = s.mode := rfl
@[simp] theorem State.setSm_burst (s : State) (m : Byte) : (s.setSm m).burst = s.burst := rfl
@[simp] theorem State.setSm_tse (s : State) (m : Byte) : (s.setSm m).tse = s.tse := rfl
@[simp] theorem State.setSm_deviceWords (s : State) (m : Byte) : (s.setSm m).deviceWords = s.deviceWords := rfl
@[simp] theorem State.setSm_outbox (s : State) (m : Byte) : (s.setSm m).outbox = s.outbox := rfl
@[simp] theorem State.setSm_env (s : State) (m : Byte) : (s.setSm m).env = s.env := rfl
@[simp] theorem State.setSm_dma (s : State) (m : Byte) : (s.setSm m).dma = s.dma := rfl
@[simp] theorem State.setSm_dmaOut (s : State) (m : Byte) : (s.setSm m).dmaOut = s.dmaOut := rfl
@[simp] theorem State.setSm_drawn (s : State) (m : Byte) : (s.setSm m).drawn = s.drawn := rfl

@[simp] theorem State.setSm_reg (s : State) (m : Byte) (q : Reg) : (s.setSm m).reg q = s.reg q := rfl
@[simp] theorem State.setSm_fp (s : State) (m : Byte) (q : Reg) : (s.setSm m).fp q = s.fp q := rfl
@[simp] theorem State.setSm_byte (s : State) (m : Byte) (x : Addr) : (s.setSm m).byte x = s.byte x := rfl
@[simp] theorem State.setSm_key (s : State) (m : Byte) (blk : Nat) : (s.setSm m).key blk = s.key blk := rfl
@[simp] theorem State.setSm_available (s : State) (m : Byte) (x : Addr) : (s.setSm m).available x = s.available x := rfl

/-! ## `State.setPm` -/

@[simp] theorem State.setPm_params (s : State) (m : BitVec 4) : (s.setPm m).params = s.params := rfl
@[simp] theorem State.setPm_gr (s : State) (m : BitVec 4) : (s.setPm m).gr = s.gr := rfl
@[simp] theorem State.setPm_fpr (s : State) (m : BitVec 4) : (s.setPm m).fpr = s.fpr := rfl
@[simp] theorem State.setPm_ilc (s : State) (m : BitVec 4) : (s.setPm m).ilc = s.ilc := rfl
@[simp] theorem State.setPm_inExecute (s : State) (m : BitVec 4) : (s.setPm m).inExecute = s.inExecute := rfl
@[simp] theorem State.setPm_mem (s : State) (m : BitVec 4) : (s.setPm m).mem = s.mem := rfl
@[simp] theorem State.setPm_keys (s : State) (m : BitVec 4) : (s.setPm m).keys = s.keys := rfl
@[simp] theorem State.setPm_rtc (s : State) (m : BitVec 4) : (s.setPm m).rtc = s.rtc := rfl
@[simp] theorem State.setPm_intimer (s : State) (m : BitVec 4) : (s.setPm m).intimer = s.intimer := rfl
@[simp] theorem State.setPm_pendTimer (s : State) (m : BitVec 4) : (s.setPm m).pendTimer = s.pendTimer := rfl
@[simp] theorem State.setPm_pendKey (s : State) (m : BitVec 4) : (s.setPm m).pendKey = s.pendKey := rfl
@[simp] theorem State.setPm_pendIo (s : State) (m : BitVec 4) : (s.setPm m).pendIo = s.pendIo := rfl
@[simp] theorem State.setPm_chanBusy (s : State) (m : BitVec 4) : (s.setPm m).chanBusy = s.chanBusy := rfl
@[simp] theorem State.setPm_mode (s : State) (m : BitVec 4) : (s.setPm m).mode = s.mode := rfl
@[simp] theorem State.setPm_burst (s : State) (m : BitVec 4) : (s.setPm m).burst = s.burst := rfl
@[simp] theorem State.setPm_tse (s : State) (m : BitVec 4) : (s.setPm m).tse = s.tse := rfl
@[simp] theorem State.setPm_deviceWords (s : State) (m : BitVec 4) : (s.setPm m).deviceWords = s.deviceWords := rfl
@[simp] theorem State.setPm_outbox (s : State) (m : BitVec 4) : (s.setPm m).outbox = s.outbox := rfl
@[simp] theorem State.setPm_env (s : State) (m : BitVec 4) : (s.setPm m).env = s.env := rfl
@[simp] theorem State.setPm_dma (s : State) (m : BitVec 4) : (s.setPm m).dma = s.dma := rfl
@[simp] theorem State.setPm_dmaOut (s : State) (m : BitVec 4) : (s.setPm m).dmaOut = s.dmaOut := rfl
@[simp] theorem State.setPm_drawn (s : State) (m : BitVec 4) : (s.setPm m).drawn = s.drawn := rfl

@[simp] theorem State.setPm_reg (s : State) (m : BitVec 4) (q : Reg) : (s.setPm m).reg q = s.reg q := rfl
@[simp] theorem State.setPm_fp (s : State) (m : BitVec 4) (q : Reg) : (s.setPm m).fp q = s.fp q := rfl
@[simp] theorem State.setPm_byte (s : State) (m : BitVec 4) (x : Addr) : (s.setPm m).byte x = s.byte x := rfl
@[simp] theorem State.setPm_key (s : State) (m : BitVec 4) (blk : Nat) : (s.setPm m).key blk = s.key blk := rfl
@[simp] theorem State.setPm_available (s : State) (m : BitVec 4) (x : Addr) : (s.setPm m).available x = s.available x := rfl

/-! ## `State.setByte` -/

@[simp] theorem State.setByte_params (s : State) (a : Addr) (v : Byte) : (s.setByte a v).params = s.params := rfl
@[simp] theorem State.setByte_gr (s : State) (a : Addr) (v : Byte) : (s.setByte a v).gr = s.gr := rfl
@[simp] theorem State.setByte_fpr (s : State) (a : Addr) (v : Byte) : (s.setByte a v).fpr = s.fpr := rfl
@[simp] theorem State.setByte_psw (s : State) (a : Addr) (v : Byte) : (s.setByte a v).psw = s.psw := rfl
@[simp] theorem State.setByte_ilc (s : State) (a : Addr) (v : Byte) : (s.setByte a v).ilc = s.ilc := rfl
@[simp] theorem State.setByte_inExecute (s : State) (a : Addr) (v : Byte) : (s.setByte a v).inExecute = s.inExecute := rfl
@[simp] theorem State.setByte_keys (s : State) (a : Addr) (v : Byte) : (s.setByte a v).keys = s.keys := rfl
@[simp] theorem State.setByte_rtc (s : State) (a : Addr) (v : Byte) : (s.setByte a v).rtc = s.rtc := rfl
@[simp] theorem State.setByte_intimer (s : State) (a : Addr) (v : Byte) : (s.setByte a v).intimer = s.intimer := rfl
@[simp] theorem State.setByte_pendTimer (s : State) (a : Addr) (v : Byte) : (s.setByte a v).pendTimer = s.pendTimer := rfl
@[simp] theorem State.setByte_pendKey (s : State) (a : Addr) (v : Byte) : (s.setByte a v).pendKey = s.pendKey := rfl
@[simp] theorem State.setByte_pendIo (s : State) (a : Addr) (v : Byte) : (s.setByte a v).pendIo = s.pendIo := rfl
@[simp] theorem State.setByte_chanBusy (s : State) (a : Addr) (v : Byte) : (s.setByte a v).chanBusy = s.chanBusy := rfl
@[simp] theorem State.setByte_mode (s : State) (a : Addr) (v : Byte) : (s.setByte a v).mode = s.mode := rfl
@[simp] theorem State.setByte_burst (s : State) (a : Addr) (v : Byte) : (s.setByte a v).burst = s.burst := rfl
@[simp] theorem State.setByte_tse (s : State) (a : Addr) (v : Byte) : (s.setByte a v).tse = s.tse := rfl
@[simp] theorem State.setByte_deviceWords (s : State) (a : Addr) (v : Byte) : (s.setByte a v).deviceWords = s.deviceWords := rfl
@[simp] theorem State.setByte_outbox (s : State) (a : Addr) (v : Byte) : (s.setByte a v).outbox = s.outbox := rfl
@[simp] theorem State.setByte_env (s : State) (a : Addr) (v : Byte) : (s.setByte a v).env = s.env := rfl
@[simp] theorem State.setByte_dma (s : State) (a : Addr) (v : Byte) : (s.setByte a v).dma = s.dma := rfl
@[simp] theorem State.setByte_dmaOut (s : State) (a : Addr) (v : Byte) : (s.setByte a v).dmaOut = s.dmaOut := rfl
@[simp] theorem State.setByte_drawn (s : State) (a : Addr) (v : Byte) : (s.setByte a v).drawn = s.drawn := rfl

@[simp] theorem State.setByte_reg (s : State) (a : Addr) (v : Byte) (q : Reg) : (s.setByte a v).reg q = s.reg q := rfl
@[simp] theorem State.setByte_fp (s : State) (a : Addr) (v : Byte) (q : Reg) : (s.setByte a v).fp q = s.fp q := rfl
@[simp] theorem State.setByte_key (s : State) (a : Addr) (v : Byte) (blk : Nat) : (s.setByte a v).key blk = s.key blk := rfl
@[simp] theorem State.setByte_available (s : State) (a : Addr) (v : Byte) (x : Addr) : (s.setByte a v).available x = s.available x := rfl

/-! ## `State.setBytes` -/

/-- Storing bytes changes storage alone. -/
theorem State.setBytes_eq (s : State) (a : Addr) (bs : List Byte) :
    s.setBytes a bs = { s with mem := (s.setBytes a bs).mem } := by
  induction bs generalizing s a with
  | nil => rfl
  | cons b bs ih =>
    show (s.setByte a b).setBytes (a + 1#20) bs = _
    rw [ih]; rfl

@[simp] theorem State.setBytes_params (s : State) (a : Addr) (bs : List Byte) : (s.setBytes a bs).params = s.params := by rw [s.setBytes_eq a bs]
@[simp] theorem State.setBytes_gr (s : State) (a : Addr) (bs : List Byte) : (s.setBytes a bs).gr = s.gr := by rw [s.setBytes_eq a bs]
@[simp] theorem State.setBytes_fpr (s : State) (a : Addr) (bs : List Byte) : (s.setBytes a bs).fpr = s.fpr := by rw [s.setBytes_eq a bs]
@[simp] theorem State.setBytes_psw (s : State) (a : Addr) (bs : List Byte) : (s.setBytes a bs).psw = s.psw := by rw [s.setBytes_eq a bs]
@[simp] theorem State.setBytes_ilc (s : State) (a : Addr) (bs : List Byte) : (s.setBytes a bs).ilc = s.ilc := by rw [s.setBytes_eq a bs]
@[simp] theorem State.setBytes_inExecute (s : State) (a : Addr) (bs : List Byte) : (s.setBytes a bs).inExecute = s.inExecute := by rw [s.setBytes_eq a bs]
@[simp] theorem State.setBytes_keys (s : State) (a : Addr) (bs : List Byte) : (s.setBytes a bs).keys = s.keys := by rw [s.setBytes_eq a bs]
@[simp] theorem State.setBytes_rtc (s : State) (a : Addr) (bs : List Byte) : (s.setBytes a bs).rtc = s.rtc := by rw [s.setBytes_eq a bs]
@[simp] theorem State.setBytes_intimer (s : State) (a : Addr) (bs : List Byte) : (s.setBytes a bs).intimer = s.intimer := by rw [s.setBytes_eq a bs]
@[simp] theorem State.setBytes_pendTimer (s : State) (a : Addr) (bs : List Byte) : (s.setBytes a bs).pendTimer = s.pendTimer := by rw [s.setBytes_eq a bs]
@[simp] theorem State.setBytes_pendKey (s : State) (a : Addr) (bs : List Byte) : (s.setBytes a bs).pendKey = s.pendKey := by rw [s.setBytes_eq a bs]
@[simp] theorem State.setBytes_pendIo (s : State) (a : Addr) (bs : List Byte) : (s.setBytes a bs).pendIo = s.pendIo := by rw [s.setBytes_eq a bs]
@[simp] theorem State.setBytes_chanBusy (s : State) (a : Addr) (bs : List Byte) : (s.setBytes a bs).chanBusy = s.chanBusy := by rw [s.setBytes_eq a bs]
@[simp] theorem State.setBytes_mode (s : State) (a : Addr) (bs : List Byte) : (s.setBytes a bs).mode = s.mode := by rw [s.setBytes_eq a bs]
@[simp] theorem State.setBytes_burst (s : State) (a : Addr) (bs : List Byte) : (s.setBytes a bs).burst = s.burst := by rw [s.setBytes_eq a bs]
@[simp] theorem State.setBytes_tse (s : State) (a : Addr) (bs : List Byte) : (s.setBytes a bs).tse = s.tse := by rw [s.setBytes_eq a bs]
@[simp] theorem State.setBytes_deviceWords (s : State) (a : Addr) (bs : List Byte) : (s.setBytes a bs).deviceWords = s.deviceWords := by rw [s.setBytes_eq a bs]
@[simp] theorem State.setBytes_outbox (s : State) (a : Addr) (bs : List Byte) : (s.setBytes a bs).outbox = s.outbox := by rw [s.setBytes_eq a bs]
@[simp] theorem State.setBytes_env (s : State) (a : Addr) (bs : List Byte) : (s.setBytes a bs).env = s.env := by rw [s.setBytes_eq a bs]
@[simp] theorem State.setBytes_dma (s : State) (a : Addr) (bs : List Byte) : (s.setBytes a bs).dma = s.dma := by rw [s.setBytes_eq a bs]
@[simp] theorem State.setBytes_dmaOut (s : State) (a : Addr) (bs : List Byte) : (s.setBytes a bs).dmaOut = s.dmaOut := by rw [s.setBytes_eq a bs]
@[simp] theorem State.setBytes_drawn (s : State) (a : Addr) (bs : List Byte) : (s.setBytes a bs).drawn = s.drawn := by rw [s.setBytes_eq a bs]

@[simp] theorem State.setBytes_reg (s : State) (a : Addr) (bs : List Byte) (q : Reg) : (s.setBytes a bs).reg q = s.reg q := by simp [State.reg]
@[simp] theorem State.setBytes_fp (s : State) (a : Addr) (bs : List Byte) (q : Reg) : (s.setBytes a bs).fp q = s.fp q := by simp [State.fp]
@[simp] theorem State.setBytes_key (s : State) (a : Addr) (bs : List Byte) (blk : Nat) : (s.setBytes a bs).key blk = s.key blk := by simp [State.key]
@[simp] theorem State.setBytes_available (s : State) (a : Addr) (bs : List Byte) (x : Addr) : (s.setBytes a bs).available x = s.available x := by simp [State.available]

/-! ## `State.setHalf` -/

@[simp] theorem State.setHalf_params (s : State) (a : Addr) (v : Half) : (s.setHalf a v).params = s.params := s.setBytes_params a _
@[simp] theorem State.setHalf_gr (s : State) (a : Addr) (v : Half) : (s.setHalf a v).gr = s.gr := s.setBytes_gr a _
@[simp] theorem State.setHalf_fpr (s : State) (a : Addr) (v : Half) : (s.setHalf a v).fpr = s.fpr := s.setBytes_fpr a _
@[simp] theorem State.setHalf_psw (s : State) (a : Addr) (v : Half) : (s.setHalf a v).psw = s.psw := s.setBytes_psw a _
@[simp] theorem State.setHalf_ilc (s : State) (a : Addr) (v : Half) : (s.setHalf a v).ilc = s.ilc := s.setBytes_ilc a _
@[simp] theorem State.setHalf_inExecute (s : State) (a : Addr) (v : Half) : (s.setHalf a v).inExecute = s.inExecute := s.setBytes_inExecute a _
@[simp] theorem State.setHalf_keys (s : State) (a : Addr) (v : Half) : (s.setHalf a v).keys = s.keys := s.setBytes_keys a _
@[simp] theorem State.setHalf_rtc (s : State) (a : Addr) (v : Half) : (s.setHalf a v).rtc = s.rtc := s.setBytes_rtc a _
@[simp] theorem State.setHalf_intimer (s : State) (a : Addr) (v : Half) : (s.setHalf a v).intimer = s.intimer := s.setBytes_intimer a _
@[simp] theorem State.setHalf_pendTimer (s : State) (a : Addr) (v : Half) : (s.setHalf a v).pendTimer = s.pendTimer := s.setBytes_pendTimer a _
@[simp] theorem State.setHalf_pendKey (s : State) (a : Addr) (v : Half) : (s.setHalf a v).pendKey = s.pendKey := s.setBytes_pendKey a _
@[simp] theorem State.setHalf_pendIo (s : State) (a : Addr) (v : Half) : (s.setHalf a v).pendIo = s.pendIo := s.setBytes_pendIo a _
@[simp] theorem State.setHalf_chanBusy (s : State) (a : Addr) (v : Half) : (s.setHalf a v).chanBusy = s.chanBusy := s.setBytes_chanBusy a _
@[simp] theorem State.setHalf_mode (s : State) (a : Addr) (v : Half) : (s.setHalf a v).mode = s.mode := s.setBytes_mode a _
@[simp] theorem State.setHalf_burst (s : State) (a : Addr) (v : Half) : (s.setHalf a v).burst = s.burst := s.setBytes_burst a _
@[simp] theorem State.setHalf_tse (s : State) (a : Addr) (v : Half) : (s.setHalf a v).tse = s.tse := s.setBytes_tse a _
@[simp] theorem State.setHalf_deviceWords (s : State) (a : Addr) (v : Half) : (s.setHalf a v).deviceWords = s.deviceWords := s.setBytes_deviceWords a _
@[simp] theorem State.setHalf_outbox (s : State) (a : Addr) (v : Half) : (s.setHalf a v).outbox = s.outbox := s.setBytes_outbox a _
@[simp] theorem State.setHalf_env (s : State) (a : Addr) (v : Half) : (s.setHalf a v).env = s.env := s.setBytes_env a _
@[simp] theorem State.setHalf_dma (s : State) (a : Addr) (v : Half) : (s.setHalf a v).dma = s.dma := s.setBytes_dma a _
@[simp] theorem State.setHalf_dmaOut (s : State) (a : Addr) (v : Half) : (s.setHalf a v).dmaOut = s.dmaOut := s.setBytes_dmaOut a _
@[simp] theorem State.setHalf_drawn (s : State) (a : Addr) (v : Half) : (s.setHalf a v).drawn = s.drawn := s.setBytes_drawn a _

@[simp] theorem State.setHalf_reg (s : State) (a : Addr) (v : Half) (q : Reg) : (s.setHalf a v).reg q = s.reg q := by simp [State.reg]
@[simp] theorem State.setHalf_fp (s : State) (a : Addr) (v : Half) (q : Reg) : (s.setHalf a v).fp q = s.fp q := by simp [State.fp]
@[simp] theorem State.setHalf_key (s : State) (a : Addr) (v : Half) (blk : Nat) : (s.setHalf a v).key blk = s.key blk := by simp [State.key]
@[simp] theorem State.setHalf_available (s : State) (a : Addr) (v : Half) (x : Addr) : (s.setHalf a v).available x = s.available x := by simp [State.available]

/-! ## `State.setWord` -/

@[simp] theorem State.setWord_params (s : State) (a : Addr) (v : Word) : (s.setWord a v).params = s.params := s.setBytes_params a _
@[simp] theorem State.setWord_gr (s : State) (a : Addr) (v : Word) : (s.setWord a v).gr = s.gr := s.setBytes_gr a _
@[simp] theorem State.setWord_fpr (s : State) (a : Addr) (v : Word) : (s.setWord a v).fpr = s.fpr := s.setBytes_fpr a _
@[simp] theorem State.setWord_psw (s : State) (a : Addr) (v : Word) : (s.setWord a v).psw = s.psw := s.setBytes_psw a _
@[simp] theorem State.setWord_ilc (s : State) (a : Addr) (v : Word) : (s.setWord a v).ilc = s.ilc := s.setBytes_ilc a _
@[simp] theorem State.setWord_inExecute (s : State) (a : Addr) (v : Word) : (s.setWord a v).inExecute = s.inExecute := s.setBytes_inExecute a _
@[simp] theorem State.setWord_keys (s : State) (a : Addr) (v : Word) : (s.setWord a v).keys = s.keys := s.setBytes_keys a _
@[simp] theorem State.setWord_rtc (s : State) (a : Addr) (v : Word) : (s.setWord a v).rtc = s.rtc := s.setBytes_rtc a _
@[simp] theorem State.setWord_intimer (s : State) (a : Addr) (v : Word) : (s.setWord a v).intimer = s.intimer := s.setBytes_intimer a _
@[simp] theorem State.setWord_pendTimer (s : State) (a : Addr) (v : Word) : (s.setWord a v).pendTimer = s.pendTimer := s.setBytes_pendTimer a _
@[simp] theorem State.setWord_pendKey (s : State) (a : Addr) (v : Word) : (s.setWord a v).pendKey = s.pendKey := s.setBytes_pendKey a _
@[simp] theorem State.setWord_pendIo (s : State) (a : Addr) (v : Word) : (s.setWord a v).pendIo = s.pendIo := s.setBytes_pendIo a _
@[simp] theorem State.setWord_chanBusy (s : State) (a : Addr) (v : Word) : (s.setWord a v).chanBusy = s.chanBusy := s.setBytes_chanBusy a _
@[simp] theorem State.setWord_mode (s : State) (a : Addr) (v : Word) : (s.setWord a v).mode = s.mode := s.setBytes_mode a _
@[simp] theorem State.setWord_burst (s : State) (a : Addr) (v : Word) : (s.setWord a v).burst = s.burst := s.setBytes_burst a _
@[simp] theorem State.setWord_tse (s : State) (a : Addr) (v : Word) : (s.setWord a v).tse = s.tse := s.setBytes_tse a _
@[simp] theorem State.setWord_deviceWords (s : State) (a : Addr) (v : Word) : (s.setWord a v).deviceWords = s.deviceWords := s.setBytes_deviceWords a _
@[simp] theorem State.setWord_outbox (s : State) (a : Addr) (v : Word) : (s.setWord a v).outbox = s.outbox := s.setBytes_outbox a _
@[simp] theorem State.setWord_env (s : State) (a : Addr) (v : Word) : (s.setWord a v).env = s.env := s.setBytes_env a _
@[simp] theorem State.setWord_dma (s : State) (a : Addr) (v : Word) : (s.setWord a v).dma = s.dma := s.setBytes_dma a _
@[simp] theorem State.setWord_dmaOut (s : State) (a : Addr) (v : Word) : (s.setWord a v).dmaOut = s.dmaOut := s.setBytes_dmaOut a _
@[simp] theorem State.setWord_drawn (s : State) (a : Addr) (v : Word) : (s.setWord a v).drawn = s.drawn := s.setBytes_drawn a _

@[simp] theorem State.setWord_reg (s : State) (a : Addr) (v : Word) (q : Reg) : (s.setWord a v).reg q = s.reg q := by simp [State.reg]
@[simp] theorem State.setWord_fp (s : State) (a : Addr) (v : Word) (q : Reg) : (s.setWord a v).fp q = s.fp q := by simp [State.fp]
@[simp] theorem State.setWord_key (s : State) (a : Addr) (v : Word) (blk : Nat) : (s.setWord a v).key blk = s.key blk := by simp [State.key]
@[simp] theorem State.setWord_available (s : State) (a : Addr) (v : Word) (x : Addr) : (s.setWord a v).available x = s.available x := by simp [State.available]

/-! ## `State.setDword` -/

@[simp] theorem State.setDword_params (s : State) (a : Addr) (v : Dword) : (s.setDword a v).params = s.params := s.setBytes_params a _
@[simp] theorem State.setDword_gr (s : State) (a : Addr) (v : Dword) : (s.setDword a v).gr = s.gr := s.setBytes_gr a _
@[simp] theorem State.setDword_fpr (s : State) (a : Addr) (v : Dword) : (s.setDword a v).fpr = s.fpr := s.setBytes_fpr a _
@[simp] theorem State.setDword_psw (s : State) (a : Addr) (v : Dword) : (s.setDword a v).psw = s.psw := s.setBytes_psw a _
@[simp] theorem State.setDword_ilc (s : State) (a : Addr) (v : Dword) : (s.setDword a v).ilc = s.ilc := s.setBytes_ilc a _
@[simp] theorem State.setDword_inExecute (s : State) (a : Addr) (v : Dword) : (s.setDword a v).inExecute = s.inExecute := s.setBytes_inExecute a _
@[simp] theorem State.setDword_keys (s : State) (a : Addr) (v : Dword) : (s.setDword a v).keys = s.keys := s.setBytes_keys a _
@[simp] theorem State.setDword_rtc (s : State) (a : Addr) (v : Dword) : (s.setDword a v).rtc = s.rtc := s.setBytes_rtc a _
@[simp] theorem State.setDword_intimer (s : State) (a : Addr) (v : Dword) : (s.setDword a v).intimer = s.intimer := s.setBytes_intimer a _
@[simp] theorem State.setDword_pendTimer (s : State) (a : Addr) (v : Dword) : (s.setDword a v).pendTimer = s.pendTimer := s.setBytes_pendTimer a _
@[simp] theorem State.setDword_pendKey (s : State) (a : Addr) (v : Dword) : (s.setDword a v).pendKey = s.pendKey := s.setBytes_pendKey a _
@[simp] theorem State.setDword_pendIo (s : State) (a : Addr) (v : Dword) : (s.setDword a v).pendIo = s.pendIo := s.setBytes_pendIo a _
@[simp] theorem State.setDword_chanBusy (s : State) (a : Addr) (v : Dword) : (s.setDword a v).chanBusy = s.chanBusy := s.setBytes_chanBusy a _
@[simp] theorem State.setDword_mode (s : State) (a : Addr) (v : Dword) : (s.setDword a v).mode = s.mode := s.setBytes_mode a _
@[simp] theorem State.setDword_burst (s : State) (a : Addr) (v : Dword) : (s.setDword a v).burst = s.burst := s.setBytes_burst a _
@[simp] theorem State.setDword_tse (s : State) (a : Addr) (v : Dword) : (s.setDword a v).tse = s.tse := s.setBytes_tse a _
@[simp] theorem State.setDword_deviceWords (s : State) (a : Addr) (v : Dword) : (s.setDword a v).deviceWords = s.deviceWords := s.setBytes_deviceWords a _
@[simp] theorem State.setDword_outbox (s : State) (a : Addr) (v : Dword) : (s.setDword a v).outbox = s.outbox := s.setBytes_outbox a _
@[simp] theorem State.setDword_env (s : State) (a : Addr) (v : Dword) : (s.setDword a v).env = s.env := s.setBytes_env a _
@[simp] theorem State.setDword_dma (s : State) (a : Addr) (v : Dword) : (s.setDword a v).dma = s.dma := s.setBytes_dma a _
@[simp] theorem State.setDword_dmaOut (s : State) (a : Addr) (v : Dword) : (s.setDword a v).dmaOut = s.dmaOut := s.setBytes_dmaOut a _
@[simp] theorem State.setDword_drawn (s : State) (a : Addr) (v : Dword) : (s.setDword a v).drawn = s.drawn := s.setBytes_drawn a _

@[simp] theorem State.setDword_reg (s : State) (a : Addr) (v : Dword) (q : Reg) : (s.setDword a v).reg q = s.reg q := by simp [State.reg]
@[simp] theorem State.setDword_fp (s : State) (a : Addr) (v : Dword) (q : Reg) : (s.setDword a v).fp q = s.fp q := by simp [State.fp]
@[simp] theorem State.setDword_key (s : State) (a : Addr) (v : Dword) (blk : Nat) : (s.setDword a v).key blk = s.key blk := by simp [State.key]
@[simp] theorem State.setDword_available (s : State) (a : Addr) (v : Dword) (x : Addr) : (s.setDword a v).available x = s.available x := by simp [State.available]

/-! ## `State.setKey` -/

@[simp] theorem State.setKey_params (s : State) (b : Nat) (k : BitVec 2) : (s.setKey b k).params = s.params := rfl
@[simp] theorem State.setKey_gr (s : State) (b : Nat) (k : BitVec 2) : (s.setKey b k).gr = s.gr := rfl
@[simp] theorem State.setKey_fpr (s : State) (b : Nat) (k : BitVec 2) : (s.setKey b k).fpr = s.fpr := rfl
@[simp] theorem State.setKey_psw (s : State) (b : Nat) (k : BitVec 2) : (s.setKey b k).psw = s.psw := rfl
@[simp] theorem State.setKey_ilc (s : State) (b : Nat) (k : BitVec 2) : (s.setKey b k).ilc = s.ilc := rfl
@[simp] theorem State.setKey_inExecute (s : State) (b : Nat) (k : BitVec 2) : (s.setKey b k).inExecute = s.inExecute := rfl
@[simp] theorem State.setKey_mem (s : State) (b : Nat) (k : BitVec 2) : (s.setKey b k).mem = s.mem := rfl
@[simp] theorem State.setKey_rtc (s : State) (b : Nat) (k : BitVec 2) : (s.setKey b k).rtc = s.rtc := rfl
@[simp] theorem State.setKey_intimer (s : State) (b : Nat) (k : BitVec 2) : (s.setKey b k).intimer = s.intimer := rfl
@[simp] theorem State.setKey_pendTimer (s : State) (b : Nat) (k : BitVec 2) : (s.setKey b k).pendTimer = s.pendTimer := rfl
@[simp] theorem State.setKey_pendKey (s : State) (b : Nat) (k : BitVec 2) : (s.setKey b k).pendKey = s.pendKey := rfl
@[simp] theorem State.setKey_pendIo (s : State) (b : Nat) (k : BitVec 2) : (s.setKey b k).pendIo = s.pendIo := rfl
@[simp] theorem State.setKey_chanBusy (s : State) (b : Nat) (k : BitVec 2) : (s.setKey b k).chanBusy = s.chanBusy := rfl
@[simp] theorem State.setKey_mode (s : State) (b : Nat) (k : BitVec 2) : (s.setKey b k).mode = s.mode := rfl
@[simp] theorem State.setKey_burst (s : State) (b : Nat) (k : BitVec 2) : (s.setKey b k).burst = s.burst := rfl
@[simp] theorem State.setKey_tse (s : State) (b : Nat) (k : BitVec 2) : (s.setKey b k).tse = s.tse := rfl
@[simp] theorem State.setKey_deviceWords (s : State) (b : Nat) (k : BitVec 2) : (s.setKey b k).deviceWords = s.deviceWords := rfl
@[simp] theorem State.setKey_outbox (s : State) (b : Nat) (k : BitVec 2) : (s.setKey b k).outbox = s.outbox := rfl
@[simp] theorem State.setKey_env (s : State) (b : Nat) (k : BitVec 2) : (s.setKey b k).env = s.env := rfl
@[simp] theorem State.setKey_dma (s : State) (b : Nat) (k : BitVec 2) : (s.setKey b k).dma = s.dma := rfl
@[simp] theorem State.setKey_dmaOut (s : State) (b : Nat) (k : BitVec 2) : (s.setKey b k).dmaOut = s.dmaOut := rfl
@[simp] theorem State.setKey_drawn (s : State) (b : Nat) (k : BitVec 2) : (s.setKey b k).drawn = s.drawn := rfl

@[simp] theorem State.setKey_reg (s : State) (b : Nat) (k : BitVec 2) (q : Reg) : (s.setKey b k).reg q = s.reg q := rfl
@[simp] theorem State.setKey_fp (s : State) (b : Nat) (k : BitVec 2) (q : Reg) : (s.setKey b k).fp q = s.fp q := rfl
@[simp] theorem State.setKey_byte (s : State) (b : Nat) (k : BitVec 2) (x : Addr) : (s.setKey b k).byte x = s.byte x := rfl
@[simp] theorem State.setKey_available (s : State) (b : Nat) (k : BitVec 2) (x : Addr) : (s.setKey b k).available x = s.available x := rfl

/-! ## `State.dmaAccess` -/

/-- A DMA access changes storage and what DMA has read. -/
theorem State.dmaAccess_eq (s : State) (y : DmaAccess) :
    s.dmaAccess y = { s with mem := (s.dmaAccess y).mem, dmaOut := (s.dmaAccess y).dmaOut } := by
  cases y with
  | write h w =>
    simp only [State.dmaAccess]
    split
    · rw [State.setHalf, State.setBytes_eq]
    · rfl
  | read h =>
    simp only [State.dmaAccess]
    split <;> rfl

@[simp] theorem State.dmaAccess_params (s : State) (y : DmaAccess) : (s.dmaAccess y).params = s.params := by rw [s.dmaAccess_eq y]
@[simp] theorem State.dmaAccess_gr (s : State) (y : DmaAccess) : (s.dmaAccess y).gr = s.gr := by rw [s.dmaAccess_eq y]
@[simp] theorem State.dmaAccess_fpr (s : State) (y : DmaAccess) : (s.dmaAccess y).fpr = s.fpr := by rw [s.dmaAccess_eq y]
@[simp] theorem State.dmaAccess_psw (s : State) (y : DmaAccess) : (s.dmaAccess y).psw = s.psw := by rw [s.dmaAccess_eq y]
@[simp] theorem State.dmaAccess_ilc (s : State) (y : DmaAccess) : (s.dmaAccess y).ilc = s.ilc := by rw [s.dmaAccess_eq y]
@[simp] theorem State.dmaAccess_inExecute (s : State) (y : DmaAccess) : (s.dmaAccess y).inExecute = s.inExecute := by rw [s.dmaAccess_eq y]
@[simp] theorem State.dmaAccess_keys (s : State) (y : DmaAccess) : (s.dmaAccess y).keys = s.keys := by rw [s.dmaAccess_eq y]
@[simp] theorem State.dmaAccess_rtc (s : State) (y : DmaAccess) : (s.dmaAccess y).rtc = s.rtc := by rw [s.dmaAccess_eq y]
@[simp] theorem State.dmaAccess_intimer (s : State) (y : DmaAccess) : (s.dmaAccess y).intimer = s.intimer := by rw [s.dmaAccess_eq y]
@[simp] theorem State.dmaAccess_pendTimer (s : State) (y : DmaAccess) : (s.dmaAccess y).pendTimer = s.pendTimer := by rw [s.dmaAccess_eq y]
@[simp] theorem State.dmaAccess_pendKey (s : State) (y : DmaAccess) : (s.dmaAccess y).pendKey = s.pendKey := by rw [s.dmaAccess_eq y]
@[simp] theorem State.dmaAccess_pendIo (s : State) (y : DmaAccess) : (s.dmaAccess y).pendIo = s.pendIo := by rw [s.dmaAccess_eq y]
@[simp] theorem State.dmaAccess_chanBusy (s : State) (y : DmaAccess) : (s.dmaAccess y).chanBusy = s.chanBusy := by rw [s.dmaAccess_eq y]
@[simp] theorem State.dmaAccess_mode (s : State) (y : DmaAccess) : (s.dmaAccess y).mode = s.mode := by rw [s.dmaAccess_eq y]
@[simp] theorem State.dmaAccess_burst (s : State) (y : DmaAccess) : (s.dmaAccess y).burst = s.burst := by rw [s.dmaAccess_eq y]
@[simp] theorem State.dmaAccess_tse (s : State) (y : DmaAccess) : (s.dmaAccess y).tse = s.tse := by rw [s.dmaAccess_eq y]
@[simp] theorem State.dmaAccess_deviceWords (s : State) (y : DmaAccess) : (s.dmaAccess y).deviceWords = s.deviceWords := by rw [s.dmaAccess_eq y]
@[simp] theorem State.dmaAccess_outbox (s : State) (y : DmaAccess) : (s.dmaAccess y).outbox = s.outbox := by rw [s.dmaAccess_eq y]
@[simp] theorem State.dmaAccess_env (s : State) (y : DmaAccess) : (s.dmaAccess y).env = s.env := by rw [s.dmaAccess_eq y]
@[simp] theorem State.dmaAccess_dma (s : State) (y : DmaAccess) : (s.dmaAccess y).dma = s.dma := by rw [s.dmaAccess_eq y]
@[simp] theorem State.dmaAccess_drawn (s : State) (y : DmaAccess) : (s.dmaAccess y).drawn = s.drawn := by rw [s.dmaAccess_eq y]

@[simp] theorem State.dmaAccess_reg (s : State) (y : DmaAccess) (q : Reg) : (s.dmaAccess y).reg q = s.reg q := by simp [State.reg]
@[simp] theorem State.dmaAccess_fp (s : State) (y : DmaAccess) (q : Reg) : (s.dmaAccess y).fp q = s.fp q := by simp [State.fp]
@[simp] theorem State.dmaAccess_key (s : State) (y : DmaAccess) (blk : Nat) : (s.dmaAccess y).key blk = s.key blk := by simp [State.key]
@[simp] theorem State.dmaAccess_available (s : State) (y : DmaAccess) (x : Addr) : (s.dmaAccess y).available x = s.available x := by simp [State.available]

/-! ## `State.dmaAccesses` -/

theorem State.dmaAccesses_eq (s : State) (ys : List DmaAccess) :
    s.dmaAccesses ys = { s with mem := (s.dmaAccesses ys).mem, dmaOut := (s.dmaAccesses ys).dmaOut } := by
  induction ys generalizing s with
  | nil => rfl
  | cons y ys ih =>
    refine (ih (s.dmaAccess y)).trans ?_
    simp [State.dmaAccesses]

@[simp] theorem State.dmaAccesses_params (s : State) (ys : List DmaAccess) : (s.dmaAccesses ys).params = s.params := by rw [s.dmaAccesses_eq ys]
@[simp] theorem State.dmaAccesses_gr (s : State) (ys : List DmaAccess) : (s.dmaAccesses ys).gr = s.gr := by rw [s.dmaAccesses_eq ys]
@[simp] theorem State.dmaAccesses_fpr (s : State) (ys : List DmaAccess) : (s.dmaAccesses ys).fpr = s.fpr := by rw [s.dmaAccesses_eq ys]
@[simp] theorem State.dmaAccesses_psw (s : State) (ys : List DmaAccess) : (s.dmaAccesses ys).psw = s.psw := by rw [s.dmaAccesses_eq ys]
@[simp] theorem State.dmaAccesses_ilc (s : State) (ys : List DmaAccess) : (s.dmaAccesses ys).ilc = s.ilc := by rw [s.dmaAccesses_eq ys]
@[simp] theorem State.dmaAccesses_inExecute (s : State) (ys : List DmaAccess) : (s.dmaAccesses ys).inExecute = s.inExecute := by rw [s.dmaAccesses_eq ys]
@[simp] theorem State.dmaAccesses_keys (s : State) (ys : List DmaAccess) : (s.dmaAccesses ys).keys = s.keys := by rw [s.dmaAccesses_eq ys]
@[simp] theorem State.dmaAccesses_rtc (s : State) (ys : List DmaAccess) : (s.dmaAccesses ys).rtc = s.rtc := by rw [s.dmaAccesses_eq ys]
@[simp] theorem State.dmaAccesses_intimer (s : State) (ys : List DmaAccess) : (s.dmaAccesses ys).intimer = s.intimer := by rw [s.dmaAccesses_eq ys]
@[simp] theorem State.dmaAccesses_pendTimer (s : State) (ys : List DmaAccess) : (s.dmaAccesses ys).pendTimer = s.pendTimer := by rw [s.dmaAccesses_eq ys]
@[simp] theorem State.dmaAccesses_pendKey (s : State) (ys : List DmaAccess) : (s.dmaAccesses ys).pendKey = s.pendKey := by rw [s.dmaAccesses_eq ys]
@[simp] theorem State.dmaAccesses_pendIo (s : State) (ys : List DmaAccess) : (s.dmaAccesses ys).pendIo = s.pendIo := by rw [s.dmaAccesses_eq ys]
@[simp] theorem State.dmaAccesses_chanBusy (s : State) (ys : List DmaAccess) : (s.dmaAccesses ys).chanBusy = s.chanBusy := by rw [s.dmaAccesses_eq ys]
@[simp] theorem State.dmaAccesses_mode (s : State) (ys : List DmaAccess) : (s.dmaAccesses ys).mode = s.mode := by rw [s.dmaAccesses_eq ys]
@[simp] theorem State.dmaAccesses_burst (s : State) (ys : List DmaAccess) : (s.dmaAccesses ys).burst = s.burst := by rw [s.dmaAccesses_eq ys]
@[simp] theorem State.dmaAccesses_tse (s : State) (ys : List DmaAccess) : (s.dmaAccesses ys).tse = s.tse := by rw [s.dmaAccesses_eq ys]
@[simp] theorem State.dmaAccesses_deviceWords (s : State) (ys : List DmaAccess) : (s.dmaAccesses ys).deviceWords = s.deviceWords := by rw [s.dmaAccesses_eq ys]
@[simp] theorem State.dmaAccesses_outbox (s : State) (ys : List DmaAccess) : (s.dmaAccesses ys).outbox = s.outbox := by rw [s.dmaAccesses_eq ys]
@[simp] theorem State.dmaAccesses_env (s : State) (ys : List DmaAccess) : (s.dmaAccesses ys).env = s.env := by rw [s.dmaAccesses_eq ys]
@[simp] theorem State.dmaAccesses_dma (s : State) (ys : List DmaAccess) : (s.dmaAccesses ys).dma = s.dma := by rw [s.dmaAccesses_eq ys]
@[simp] theorem State.dmaAccesses_drawn (s : State) (ys : List DmaAccess) : (s.dmaAccesses ys).drawn = s.drawn := by rw [s.dmaAccesses_eq ys]

@[simp] theorem State.dmaAccesses_reg (s : State) (ys : List DmaAccess) (q : Reg) : (s.dmaAccesses ys).reg q = s.reg q := by simp [State.reg]
@[simp] theorem State.dmaAccesses_fp (s : State) (ys : List DmaAccess) (q : Reg) : (s.dmaAccesses ys).fp q = s.fp q := by simp [State.fp]
@[simp] theorem State.dmaAccesses_key (s : State) (ys : List DmaAccess) (blk : Nat) : (s.dmaAccesses ys).key blk = s.key blk := by simp [State.key]
@[simp] theorem State.dmaAccesses_available (s : State) (ys : List DmaAccess) (x : Addr) : (s.dmaAccesses ys).available x = s.available x := by simp [State.available]

/-! ## `State.access` -/

/-- The moment of an access changes storage, the DMA accesses still to come and what DMA has read. -/
theorem State.access_eq (s : State) :
    s.access = { s with mem := s.access.mem, dma := s.access.dma, dmaOut := s.access.dmaOut } := by
  unfold State.access
  split
  · rfl
  · rw [State.dmaAccesses_eq]

/-- Where DMA does nothing before it, an access finds the state as it is. -/
@[simp] theorem State.access_quiet {s : State} (h : s.dma = []) : s.access = s := by
  unfold State.access; rw [h]

@[simp] theorem State.access_params (s : State) : (s.access).params = s.params := by rw [s.access_eq]
@[simp] theorem State.access_gr (s : State) : (s.access).gr = s.gr := by rw [s.access_eq]
@[simp] theorem State.access_fpr (s : State) : (s.access).fpr = s.fpr := by rw [s.access_eq]
@[simp] theorem State.access_psw (s : State) : (s.access).psw = s.psw := by rw [s.access_eq]
@[simp] theorem State.access_ilc (s : State) : (s.access).ilc = s.ilc := by rw [s.access_eq]
@[simp] theorem State.access_inExecute (s : State) : (s.access).inExecute = s.inExecute := by rw [s.access_eq]
@[simp] theorem State.access_keys (s : State) : (s.access).keys = s.keys := by rw [s.access_eq]
@[simp] theorem State.access_rtc (s : State) : (s.access).rtc = s.rtc := by rw [s.access_eq]
@[simp] theorem State.access_intimer (s : State) : (s.access).intimer = s.intimer := by rw [s.access_eq]
@[simp] theorem State.access_pendTimer (s : State) : (s.access).pendTimer = s.pendTimer := by rw [s.access_eq]
@[simp] theorem State.access_pendKey (s : State) : (s.access).pendKey = s.pendKey := by rw [s.access_eq]
@[simp] theorem State.access_pendIo (s : State) : (s.access).pendIo = s.pendIo := by rw [s.access_eq]
@[simp] theorem State.access_chanBusy (s : State) : (s.access).chanBusy = s.chanBusy := by rw [s.access_eq]
@[simp] theorem State.access_mode (s : State) : (s.access).mode = s.mode := by rw [s.access_eq]
@[simp] theorem State.access_burst (s : State) : (s.access).burst = s.burst := by rw [s.access_eq]
@[simp] theorem State.access_tse (s : State) : (s.access).tse = s.tse := by rw [s.access_eq]
@[simp] theorem State.access_deviceWords (s : State) : (s.access).deviceWords = s.deviceWords := by rw [s.access_eq]
@[simp] theorem State.access_outbox (s : State) : (s.access).outbox = s.outbox := by rw [s.access_eq]
@[simp] theorem State.access_env (s : State) : (s.access).env = s.env := by rw [s.access_eq]
@[simp] theorem State.access_drawn (s : State) : (s.access).drawn = s.drawn := by rw [s.access_eq]

@[simp] theorem State.access_reg (s : State) (q : Reg) : (s.access).reg q = s.reg q := by simp [State.reg]
@[simp] theorem State.access_fp (s : State) (q : Reg) : (s.access).fp q = s.fp q := by simp [State.fp]
@[simp] theorem State.access_key (s : State) (blk : Nat) : (s.access).key blk = s.key blk := by simp [State.key]
@[simp] theorem State.access_available (s : State) (x : Addr) : (s.access).available x = s.available x := by simp [State.available]

/-! ## `State.loadPsw` -/

@[simp] theorem State.loadPsw_params (s : State) (a : Addr) : (s.loadPsw a).params = s.params := rfl
@[simp] theorem State.loadPsw_gr (s : State) (a : Addr) : (s.loadPsw a).gr = s.gr := rfl
@[simp] theorem State.loadPsw_fpr (s : State) (a : Addr) : (s.loadPsw a).fpr = s.fpr := rfl
@[simp] theorem State.loadPsw_ilc (s : State) (a : Addr) : (s.loadPsw a).ilc = s.ilc := rfl
@[simp] theorem State.loadPsw_inExecute (s : State) (a : Addr) : (s.loadPsw a).inExecute = s.inExecute := rfl
@[simp] theorem State.loadPsw_mem (s : State) (a : Addr) : (s.loadPsw a).mem = s.mem := rfl
@[simp] theorem State.loadPsw_keys (s : State) (a : Addr) : (s.loadPsw a).keys = s.keys := rfl
@[simp] theorem State.loadPsw_rtc (s : State) (a : Addr) : (s.loadPsw a).rtc = s.rtc := rfl
@[simp] theorem State.loadPsw_intimer (s : State) (a : Addr) : (s.loadPsw a).intimer = s.intimer := rfl
@[simp] theorem State.loadPsw_pendTimer (s : State) (a : Addr) : (s.loadPsw a).pendTimer = s.pendTimer := rfl
@[simp] theorem State.loadPsw_pendKey (s : State) (a : Addr) : (s.loadPsw a).pendKey = s.pendKey := rfl
@[simp] theorem State.loadPsw_pendIo (s : State) (a : Addr) : (s.loadPsw a).pendIo = s.pendIo := rfl
@[simp] theorem State.loadPsw_chanBusy (s : State) (a : Addr) : (s.loadPsw a).chanBusy = s.chanBusy := rfl
@[simp] theorem State.loadPsw_burst (s : State) (a : Addr) : (s.loadPsw a).burst = s.burst := rfl
@[simp] theorem State.loadPsw_tse (s : State) (a : Addr) : (s.loadPsw a).tse = s.tse := rfl
@[simp] theorem State.loadPsw_deviceWords (s : State) (a : Addr) : (s.loadPsw a).deviceWords = s.deviceWords := rfl
@[simp] theorem State.loadPsw_outbox (s : State) (a : Addr) : (s.loadPsw a).outbox = s.outbox := rfl
@[simp] theorem State.loadPsw_env (s : State) (a : Addr) : (s.loadPsw a).env = s.env := rfl
@[simp] theorem State.loadPsw_dma (s : State) (a : Addr) : (s.loadPsw a).dma = s.dma := rfl
@[simp] theorem State.loadPsw_dmaOut (s : State) (a : Addr) : (s.loadPsw a).dmaOut = s.dmaOut := rfl
@[simp] theorem State.loadPsw_drawn (s : State) (a : Addr) : (s.loadPsw a).drawn = s.drawn := rfl

@[simp] theorem State.loadPsw_reg (s : State) (a : Addr) (q : Reg) : (s.loadPsw a).reg q = s.reg q := rfl
@[simp] theorem State.loadPsw_fp (s : State) (a : Addr) (q : Reg) : (s.loadPsw a).fp q = s.fp q := rfl
@[simp] theorem State.loadPsw_byte (s : State) (a : Addr) (x : Addr) : (s.loadPsw a).byte x = s.byte x := rfl
@[simp] theorem State.loadPsw_key (s : State) (a : Addr) (blk : Nat) : (s.loadPsw a).key blk = s.key blk := rfl
@[simp] theorem State.loadPsw_available (s : State) (a : Addr) (x : Addr) : (s.loadPsw a).available x = s.available x := rfl

/-! ## `State.interrupt` -/

@[simp] theorem State.interrupt_params (s : State) (c : IntClass) (code : Half) (ilc : BitVec 2) : (s.interrupt c code ilc).params = s.params := by simp [State.interrupt]
@[simp] theorem State.interrupt_gr (s : State) (c : IntClass) (code : Half) (ilc : BitVec 2) : (s.interrupt c code ilc).gr = s.gr := by simp [State.interrupt]
@[simp] theorem State.interrupt_fpr (s : State) (c : IntClass) (code : Half) (ilc : BitVec 2) : (s.interrupt c code ilc).fpr = s.fpr := by simp [State.interrupt]
@[simp] theorem State.interrupt_ilc (s : State) (c : IntClass) (code : Half) (ilc : BitVec 2) : (s.interrupt c code ilc).ilc = s.ilc := by simp [State.interrupt]
@[simp] theorem State.interrupt_inExecute (s : State) (c : IntClass) (code : Half) (ilc : BitVec 2) : (s.interrupt c code ilc).inExecute = s.inExecute := by simp [State.interrupt]
@[simp] theorem State.interrupt_rtc (s : State) (c : IntClass) (code : Half) (ilc : BitVec 2) : (s.interrupt c code ilc).rtc = s.rtc := by simp [State.interrupt]
@[simp] theorem State.interrupt_intimer (s : State) (c : IntClass) (code : Half) (ilc : BitVec 2) : (s.interrupt c code ilc).intimer = s.intimer := by simp [State.interrupt]
@[simp] theorem State.interrupt_pendTimer (s : State) (c : IntClass) (code : Half) (ilc : BitVec 2) : (s.interrupt c code ilc).pendTimer = s.pendTimer := by simp [State.interrupt]
@[simp] theorem State.interrupt_pendKey (s : State) (c : IntClass) (code : Half) (ilc : BitVec 2) : (s.interrupt c code ilc).pendKey = s.pendKey := by simp [State.interrupt]
@[simp] theorem State.interrupt_pendIo (s : State) (c : IntClass) (code : Half) (ilc : BitVec 2) : (s.interrupt c code ilc).pendIo = s.pendIo := by simp [State.interrupt]
@[simp] theorem State.interrupt_chanBusy (s : State) (c : IntClass) (code : Half) (ilc : BitVec 2) : (s.interrupt c code ilc).chanBusy = s.chanBusy := by simp [State.interrupt]
@[simp] theorem State.interrupt_burst (s : State) (c : IntClass) (code : Half) (ilc : BitVec 2) : (s.interrupt c code ilc).burst = s.burst := by simp [State.interrupt]
@[simp] theorem State.interrupt_tse (s : State) (c : IntClass) (code : Half) (ilc : BitVec 2) : (s.interrupt c code ilc).tse = s.tse := by simp [State.interrupt]
@[simp] theorem State.interrupt_deviceWords (s : State) (c : IntClass) (code : Half) (ilc : BitVec 2) : (s.interrupt c code ilc).deviceWords = s.deviceWords := by simp [State.interrupt]
@[simp] theorem State.interrupt_outbox (s : State) (c : IntClass) (code : Half) (ilc : BitVec 2) : (s.interrupt c code ilc).outbox = s.outbox := by simp [State.interrupt]
@[simp] theorem State.interrupt_env (s : State) (c : IntClass) (code : Half) (ilc : BitVec 2) : (s.interrupt c code ilc).env = s.env := by simp [State.interrupt]
@[simp] theorem State.interrupt_drawn (s : State) (c : IntClass) (code : Half) (ilc : BitVec 2) : (s.interrupt c code ilc).drawn = s.drawn := by simp [State.interrupt]

@[simp] theorem State.interrupt_reg (s : State) (c : IntClass) (code : Half) (ilc : BitVec 2) (q : Reg) : (s.interrupt c code ilc).reg q = s.reg q := by simp [State.reg]
@[simp] theorem State.interrupt_fp (s : State) (c : IntClass) (code : Half) (ilc : BitVec 2) (q : Reg) : (s.interrupt c code ilc).fp q = s.fp q := by simp [State.fp]
@[simp] theorem State.interrupt_available (s : State) (c : IntClass) (code : Half) (ilc : BitVec 2) (x : Addr) : (s.interrupt c code ilc).available x = s.available x := by simp [State.available]

/-! ## `State.draw` -/

@[simp] theorem State.draw_params (s : State) : (s.draw).params = s.params := rfl
@[simp] theorem State.draw_gr (s : State) : (s.draw).gr = s.gr := rfl
@[simp] theorem State.draw_fpr (s : State) : (s.draw).fpr = s.fpr := rfl
@[simp] theorem State.draw_psw (s : State) : (s.draw).psw = s.psw := rfl
@[simp] theorem State.draw_ilc (s : State) : (s.draw).ilc = s.ilc := rfl
@[simp] theorem State.draw_inExecute (s : State) : (s.draw).inExecute = s.inExecute := rfl
@[simp] theorem State.draw_mem (s : State) : (s.draw).mem = s.mem := rfl
@[simp] theorem State.draw_keys (s : State) : (s.draw).keys = s.keys := rfl
@[simp] theorem State.draw_rtc (s : State) : (s.draw).rtc = s.rtc := rfl
@[simp] theorem State.draw_intimer (s : State) : (s.draw).intimer = s.intimer := rfl
@[simp] theorem State.draw_pendTimer (s : State) : (s.draw).pendTimer = s.pendTimer := rfl
@[simp] theorem State.draw_pendKey (s : State) : (s.draw).pendKey = s.pendKey := rfl
@[simp] theorem State.draw_pendIo (s : State) : (s.draw).pendIo = s.pendIo := rfl
@[simp] theorem State.draw_chanBusy (s : State) : (s.draw).chanBusy = s.chanBusy := rfl
@[simp] theorem State.draw_mode (s : State) : (s.draw).mode = s.mode := rfl
@[simp] theorem State.draw_burst (s : State) : (s.draw).burst = s.burst := rfl
@[simp] theorem State.draw_tse (s : State) : (s.draw).tse = s.tse := rfl
@[simp] theorem State.draw_deviceWords (s : State) : (s.draw).deviceWords = s.deviceWords := rfl
@[simp] theorem State.draw_outbox (s : State) : (s.draw).outbox = s.outbox := rfl
@[simp] theorem State.draw_env (s : State) : (s.draw).env = s.env := rfl
@[simp] theorem State.draw_dma (s : State) : (s.draw).dma = s.dma := rfl
@[simp] theorem State.draw_dmaOut (s : State) : (s.draw).dmaOut = s.dmaOut := rfl

@[simp] theorem State.draw_reg (s : State) (q : Reg) : (s.draw).reg q = s.reg q := rfl
@[simp] theorem State.draw_fp (s : State) (q : Reg) : (s.draw).fp q = s.fp q := rfl
@[simp] theorem State.draw_byte (s : State) (x : Addr) : (s.draw).byte x = s.byte x := rfl
@[simp] theorem State.draw_key (s : State) (blk : Nat) : (s.draw).key blk = s.key blk := rfl
@[simp] theorem State.draw_available (s : State) (x : Addr) : (s.draw).available x = s.available x := rfl

/-! ## `State.send` -/

@[simp] theorem State.send_params (s : State) (y : Sent) : (s.send y).params = s.params := rfl
@[simp] theorem State.send_gr (s : State) (y : Sent) : (s.send y).gr = s.gr := rfl
@[simp] theorem State.send_fpr (s : State) (y : Sent) : (s.send y).fpr = s.fpr := rfl
@[simp] theorem State.send_psw (s : State) (y : Sent) : (s.send y).psw = s.psw := rfl
@[simp] theorem State.send_ilc (s : State) (y : Sent) : (s.send y).ilc = s.ilc := rfl
@[simp] theorem State.send_inExecute (s : State) (y : Sent) : (s.send y).inExecute = s.inExecute := rfl
@[simp] theorem State.send_mem (s : State) (y : Sent) : (s.send y).mem = s.mem := rfl
@[simp] theorem State.send_keys (s : State) (y : Sent) : (s.send y).keys = s.keys := rfl
@[simp] theorem State.send_rtc (s : State) (y : Sent) : (s.send y).rtc = s.rtc := rfl
@[simp] theorem State.send_intimer (s : State) (y : Sent) : (s.send y).intimer = s.intimer := rfl
@[simp] theorem State.send_pendTimer (s : State) (y : Sent) : (s.send y).pendTimer = s.pendTimer := rfl
@[simp] theorem State.send_pendKey (s : State) (y : Sent) : (s.send y).pendKey = s.pendKey := rfl
@[simp] theorem State.send_pendIo (s : State) (y : Sent) : (s.send y).pendIo = s.pendIo := rfl
@[simp] theorem State.send_chanBusy (s : State) (y : Sent) : (s.send y).chanBusy = s.chanBusy := rfl
@[simp] theorem State.send_mode (s : State) (y : Sent) : (s.send y).mode = s.mode := rfl
@[simp] theorem State.send_burst (s : State) (y : Sent) : (s.send y).burst = s.burst := rfl
@[simp] theorem State.send_tse (s : State) (y : Sent) : (s.send y).tse = s.tse := rfl
@[simp] theorem State.send_deviceWords (s : State) (y : Sent) : (s.send y).deviceWords = s.deviceWords := rfl
@[simp] theorem State.send_env (s : State) (y : Sent) : (s.send y).env = s.env := rfl
@[simp] theorem State.send_dma (s : State) (y : Sent) : (s.send y).dma = s.dma := rfl
@[simp] theorem State.send_dmaOut (s : State) (y : Sent) : (s.send y).dmaOut = s.dmaOut := rfl
@[simp] theorem State.send_drawn (s : State) (y : Sent) : (s.send y).drawn = s.drawn := rfl

@[simp] theorem State.send_reg (s : State) (y : Sent) (q : Reg) : (s.send y).reg q = s.reg q := rfl
@[simp] theorem State.send_fp (s : State) (y : Sent) (q : Reg) : (s.send y).fp q = s.fp q := rfl
@[simp] theorem State.send_byte (s : State) (y : Sent) (x : Addr) : (s.send y).byte x = s.byte x := rfl
@[simp] theorem State.send_key (s : State) (y : Sent) (blk : Nat) : (s.send y).key blk = s.key blk := rfl
@[simp] theorem State.send_available (s : State) (y : Sent) (x : Addr) : (s.send y).available x = s.available x := rfl

/-! ## `State.hang` -/

@[simp] theorem State.hang_params (s : State) : (s.hang).params = s.params := rfl
@[simp] theorem State.hang_gr (s : State) : (s.hang).gr = s.gr := rfl
@[simp] theorem State.hang_fpr (s : State) : (s.hang).fpr = s.fpr := rfl
@[simp] theorem State.hang_psw (s : State) : (s.hang).psw = s.psw := rfl
@[simp] theorem State.hang_ilc (s : State) : (s.hang).ilc = s.ilc := rfl
@[simp] theorem State.hang_inExecute (s : State) : (s.hang).inExecute = s.inExecute := rfl
@[simp] theorem State.hang_mem (s : State) : (s.hang).mem = s.mem := rfl
@[simp] theorem State.hang_keys (s : State) : (s.hang).keys = s.keys := rfl
@[simp] theorem State.hang_rtc (s : State) : (s.hang).rtc = s.rtc := rfl
@[simp] theorem State.hang_intimer (s : State) : (s.hang).intimer = s.intimer := rfl
@[simp] theorem State.hang_pendTimer (s : State) : (s.hang).pendTimer = s.pendTimer := rfl
@[simp] theorem State.hang_pendKey (s : State) : (s.hang).pendKey = s.pendKey := rfl
@[simp] theorem State.hang_pendIo (s : State) : (s.hang).pendIo = s.pendIo := rfl
@[simp] theorem State.hang_chanBusy (s : State) : (s.hang).chanBusy = s.chanBusy := rfl
@[simp] theorem State.hang_burst (s : State) : (s.hang).burst = s.burst := rfl
@[simp] theorem State.hang_tse (s : State) : (s.hang).tse = s.tse := rfl
@[simp] theorem State.hang_deviceWords (s : State) : (s.hang).deviceWords = s.deviceWords := rfl
@[simp] theorem State.hang_outbox (s : State) : (s.hang).outbox = s.outbox := rfl
@[simp] theorem State.hang_env (s : State) : (s.hang).env = s.env := rfl
@[simp] theorem State.hang_dma (s : State) : (s.hang).dma = s.dma := rfl
@[simp] theorem State.hang_dmaOut (s : State) : (s.hang).dmaOut = s.dmaOut := rfl
@[simp] theorem State.hang_drawn (s : State) : (s.hang).drawn = s.drawn := rfl

@[simp] theorem State.hang_reg (s : State) (q : Reg) : (s.hang).reg q = s.reg q := rfl
@[simp] theorem State.hang_fp (s : State) (q : Reg) : (s.hang).fp q = s.fp q := rfl
@[simp] theorem State.hang_byte (s : State) (x : Addr) : (s.hang).byte x = s.byte x := rfl
@[simp] theorem State.hang_key (s : State) (blk : Nat) : (s.hang).key blk = s.key blk := rfl
@[simp] theorem State.hang_available (s : State) (x : Addr) : (s.hang).available x = s.available x := rfl

/-! ## `State.advance` -/

@[simp] theorem State.advance_params (s : State) (n : Nat) : (s.advance n).params = s.params := rfl
@[simp] theorem State.advance_gr (s : State) (n : Nat) : (s.advance n).gr = s.gr := rfl
@[simp] theorem State.advance_fpr (s : State) (n : Nat) : (s.advance n).fpr = s.fpr := rfl
@[simp] theorem State.advance_mem (s : State) (n : Nat) : (s.advance n).mem = s.mem := rfl
@[simp] theorem State.advance_keys (s : State) (n : Nat) : (s.advance n).keys = s.keys := rfl
@[simp] theorem State.advance_rtc (s : State) (n : Nat) : (s.advance n).rtc = s.rtc := rfl
@[simp] theorem State.advance_intimer (s : State) (n : Nat) : (s.advance n).intimer = s.intimer := rfl
@[simp] theorem State.advance_pendTimer (s : State) (n : Nat) : (s.advance n).pendTimer = s.pendTimer := rfl
@[simp] theorem State.advance_pendKey (s : State) (n : Nat) : (s.advance n).pendKey = s.pendKey := rfl
@[simp] theorem State.advance_pendIo (s : State) (n : Nat) : (s.advance n).pendIo = s.pendIo := rfl
@[simp] theorem State.advance_chanBusy (s : State) (n : Nat) : (s.advance n).chanBusy = s.chanBusy := rfl
@[simp] theorem State.advance_mode (s : State) (n : Nat) : (s.advance n).mode = s.mode := rfl
@[simp] theorem State.advance_burst (s : State) (n : Nat) : (s.advance n).burst = s.burst := rfl
@[simp] theorem State.advance_tse (s : State) (n : Nat) : (s.advance n).tse = s.tse := rfl
@[simp] theorem State.advance_deviceWords (s : State) (n : Nat) : (s.advance n).deviceWords = s.deviceWords := rfl
@[simp] theorem State.advance_outbox (s : State) (n : Nat) : (s.advance n).outbox = s.outbox := rfl
@[simp] theorem State.advance_env (s : State) (n : Nat) : (s.advance n).env = s.env := rfl
@[simp] theorem State.advance_dma (s : State) (n : Nat) : (s.advance n).dma = s.dma := rfl
@[simp] theorem State.advance_dmaOut (s : State) (n : Nat) : (s.advance n).dmaOut = s.dmaOut := rfl
@[simp] theorem State.advance_drawn (s : State) (n : Nat) : (s.advance n).drawn = s.drawn := rfl

@[simp] theorem State.advance_reg (s : State) (n : Nat) (q : Reg) : (s.advance n).reg q = s.reg q := rfl
@[simp] theorem State.advance_fp (s : State) (n : Nat) (q : Reg) : (s.advance n).fp q = s.fp q := rfl
@[simp] theorem State.advance_byte (s : State) (n : Nat) (x : Addr) : (s.advance n).byte x = s.byte x := rfl
@[simp] theorem State.advance_key (s : State) (n : Nat) (blk : Nat) : (s.advance n).key blk = s.key blk := rfl
@[simp] theorem State.advance_available (s : State) (n : Nat) (x : Addr) : (s.advance n).available x = s.available x := rfl

/-! ## What the updates of the PSW set -/

@[simp] theorem State.setCc_psw_eq (s : State) (c : Cc) : (s.setCc c).psw = { s.psw with cc := c } := rfl
@[simp] theorem State.setIa_psw_eq (s : State) (a : Addr) : (s.setIa a).psw = { s.psw with ia := a } := rfl
@[simp] theorem State.setSm_psw_eq (s : State) (m : Byte) : (s.setSm m).psw = { s.psw with sm := m } := rfl
@[simp] theorem State.setPm_psw_eq (s : State) (m : BitVec 4) : (s.setPm m).psw = { s.psw with pm := m } := rfl
@[simp] theorem State.setCc_maskOverflow (s : State) (c : Cc) : (s.setCc c).maskOverflow = s.maskOverflow := rfl
@[simp] theorem State.setCc_maskUnderflow (s : State) (c : Cc) : (s.setCc c).maskUnderflow = s.maskUnderflow := rfl
@[simp] theorem State.setCc_maskSignificance (s : State) (c : Cc) :
    (s.setCc c).maskSignificance = s.maskSignificance := rfl
@[simp] theorem State.loadPsw_psw_eq (s : State) (a : Addr) : (s.loadPsw a).psw = Psw.unpack (s.dword a) := rfl
@[simp] theorem State.loadPsw_mode_eq (s : State) (a : Addr) : (s.loadPsw a).mode = .operating := rfl
@[simp] theorem State.interrupt_mode_eq (s : State) (c : IntClass) (code : Half) (ilc : BitVec 2) :
    (s.interrupt c code ilc).mode = .operating := rfl
@[simp] theorem State.draw_drawn_eq (s : State) : s.draw.drawn = s.drawn + 1 := rfl
@[simp] theorem State.send_outbox_eq (s : State) (x : Sent) : (s.send x).outbox = x :: s.outbox := rfl
@[simp] theorem State.hang_mode_eq (s : State) : s.hang.mode = .hung := rfl

end Sys2Proof.Machine
end

