-- ==== Sys2Proof/Laws/Memory.lean ====
section
/-! SUPPORT.
Sparse tables: a read after a write, the canonical form kept by every operation, the bound on the listed numbers, and tables
in canonical form that read alike being equal.
-/
namespace Sys2Proof.Machine

/-! ## Reads -/

theorem sparseGet_erase {w : Nat} (a b : Nat) (m : List (Nat × BitVec w)) :
    sparseGet b (sparseErase a m) = if b = a then unlisted w else sparseGet b m := by
  induction m with
  | nil => simp [sparseErase, sparseGet]
  | cons c r ih =>
    obtain ⟨k, v⟩ := c
    simp only [sparseErase]
    by_cases hk : k = a
    · simp only [hk, if_true, ih, sparseGet]
      by_cases hb : b = a
      · simp [hb]
      · simp [hb, Ne.symm hb]
    · simp only [hk, if_false, sparseGet, ih]
      by_cases hb : k = b
      · subst hb; simp [hk]
      · simp [hb]

theorem sparseGet_insert {w : Nat} (a b : Nat) (v : BitVec w) (m : List (Nat × BitVec w))
    (h : ∀ c ∈ m, c.1 ≠ a) : sparseGet b (sparseInsert a v m) = if b = a then v else sparseGet b m := by
  induction m with
  | nil => simp only [sparseInsert, sparseGet, eq_comm]
  | cons c r ih =>
    obtain ⟨k, u⟩ := c
    have hk : k ≠ a := h (k, u) (by simp)
    have hr : ∀ c ∈ r, c.1 ≠ a := fun c hc => h c (by simp [hc])
    simp only [sparseInsert]
    split
    · simp only [sparseGet, eq_comm (a := a)]
    · simp only [sparseGet, ih hr]; split <;> split <;> simp_all

theorem sparseErase_ne {w : Nat} (a : Nat) (m : List (Nat × BitVec w)) : ∀ c ∈ sparseErase a m, c.1 ≠ a := by
  induction m with
  | nil => simp [sparseErase]
  | cons c r ih =>
    obtain ⟨k, v⟩ := c
    simp only [sparseErase]
    split
    · exact ih
    · intro c hc
      rcases List.mem_cons.1 hc with rfl | hc
      · assumption
      · exact ih c hc

/-- A read after a write, whatever the table. -/
theorem sparseGet_set {w : Nat} (a b : Nat) (v : BitVec w) (m : List (Nat × BitVec w)) :
    sparseGet b (sparseSet a v m) = if b = a then v else sparseGet b m := by
  unfold sparseSet
  split
  · rename_i h; rw [sparseGet_erase, h]
  · rw [sparseGet_insert _ _ _ _ (sparseErase_ne a m), sparseGet_erase]; split <;> rfl

/-! ## The canonical form -/

theorem sparseErase_sublist {w : Nat} (a : Nat) (m : List (Nat × BitVec w)) : (sparseErase a m).Sublist m := by
  induction m with
  | nil => simp [sparseErase]
  | cons c r ih =>
    obtain ⟨k, v⟩ := c
    simp only [sparseErase]
    split
    · exact ih.cons _
    · exact ih.cons_cons _

theorem mem_sparseInsert {w : Nat} {a : Nat} {v : BitVec w} {m : List (Nat × BitVec w)} {c : Nat × BitVec w} :
    c ∈ sparseInsert a v m ↔ c = (a, v) ∨ c ∈ m := by
  induction m with
  | nil => simp [sparseInsert]
  | cons d r ih =>
    obtain ⟨k, u⟩ := d
    simp only [sparseInsert]
    split
    · simp
    · simp only [List.mem_cons, ih]; tauto

theorem sparseErase_wf {w : Nat} (a : Nat) {m : List (Nat × BitVec w)} (h : sparseWf m) : sparseWf (sparseErase a m) :=
  ⟨h.1.sublist ((sparseErase_sublist a m).map _), fun c hc => h.2 c ((sparseErase_sublist a m).subset hc)⟩

theorem sparseInsert_pairwise {w : Nat} (a : Nat) (v : BitVec w) {m : List (Nat × BitVec w)}
    (h : (m.map (·.1)).Pairwise (· < ·)) (ha : ∀ c ∈ m, c.1 ≠ a) :
    ((sparseInsert a v m).map (·.1)).Pairwise (· < ·) := by
  induction m with
  | nil => simp [sparseInsert]
  | cons d r ih =>
    obtain ⟨k, u⟩ := d
    rw [List.map_cons, List.pairwise_cons] at h
    have hk : k ≠ a := ha (k, u) (by simp)
    have hr : ∀ c ∈ r, c.1 ≠ a := fun c hc => ha c (by simp [hc])
    simp only [sparseInsert]
    split
    · rename_i hlt
      simp only [List.map_cons, List.pairwise_cons]
      refine ⟨?_, h.1, h.2⟩
      intro x hx
      rcases List.mem_cons.1 hx with rfl | hx
      · exact hlt
      · exact lt_trans hlt (h.1 x hx)
    · simp only [List.map_cons, List.pairwise_cons]
      refine ⟨?_, ih h.2 hr⟩
      intro x hx
      obtain ⟨c, hc, rfl⟩ := List.mem_map.1 hx
      rcases mem_sparseInsert.1 hc with rfl | hc
      · show k < a; omega
      · exact h.1 _ (List.mem_map.2 ⟨c, hc, rfl⟩)

theorem sparseSet_wf {w : Nat} (a : Nat) (v : BitVec w) {m : List (Nat × BitVec w)} (h : sparseWf m) :
    sparseWf (sparseSet a v m) := by
  unfold sparseSet
  split
  · exact sparseErase_wf a h
  · rename_i hv
    have he := sparseErase_wf a h
    refine ⟨sparseInsert_pairwise a v he.1 (sparseErase_ne a m), ?_⟩
    intro c hc
    rcases mem_sparseInsert.1 hc with rfl | hc
    · exact hv
    · exact he.2 c hc

/-- What a write lists: the number written to, or what was listed before. -/
theorem mem_sparseSet {w : Nat} {a : Nat} {v : BitVec w} {m : List (Nat × BitVec w)} {c : Nat × BitVec w}
    (h : c ∈ sparseSet a v m) : c.1 = a ∨ c ∈ m := by
  unfold sparseSet at h
  split at h
  · exact .inr ((sparseErase_sublist a m).subset h)
  · rcases mem_sparseInsert.1 h with rfl | h
    · exact .inl rfl
    · exact .inr ((sparseErase_sublist a m).subset h)

theorem sparseOf_wf {w : Nat} (bound : Nat) (m : List (Nat × BitVec w)) : sparseWf (sparseOf bound m) := by
  unfold sparseOf
  induction m.filter (fun c => c.1 < bound) with
  | nil => exact ⟨List.Pairwise.nil, by simp⟩
  | cons c r ih => exact sparseSet_wf _ _ ih

theorem mem_sparseOf {w : Nat} {bound : Nat} {m : List (Nat × BitVec w)} {c : Nat × BitVec w}
    (h : c ∈ sparseOf bound m) : c.1 < bound := by
  unfold sparseOf at h
  have key : ∀ l : List (Nat × BitVec w), (∀ c ∈ l, c.1 < bound) →
      ∀ c ∈ l.foldr (fun c t => sparseSet c.1 c.2 t) [], c.1 < bound := by
    intro l hl
    induction l with
    | nil => simp
    | cons d r ih =>
      intro c hc
      rcases mem_sparseSet hc with h | h
      · rw [h]; exact hl d (by simp)
      · exact ih (fun c hc => hl c (by simp [hc])) c h
  exact key _ (fun c hc => by simpa using (List.mem_filter.1 hc).2) c h

theorem sparseGet_of_lt {w : Nat} {a : Nat} {m : List (Nat × BitVec w)} (h : ∀ c ∈ m, a < c.1) :
    sparseGet a m = unlisted w := by
  induction m with
  | nil => rfl
  | cons c r ih =>
    obtain ⟨k, v⟩ := c
    have : a < k := h (k, v) (by simp)
    simp only [sparseGet]
    rw [if_neg (by omega), ih fun c hc => h c (by simp [hc])]

/-- Tables in canonical form that read alike are equal. -/
theorem sparse_ext {w : Nat} {m n : List (Nat × BitVec w)} (hm : sparseWf m) (hn : sparseWf n)
    (h : ∀ a, sparseGet a m = sparseGet a n) : m = n := by
  induction m generalizing n with
  | nil =>
    cases n with
    | nil => rfl
    | cons c r =>
      have := h c.1
      simp only [sparseGet, if_pos] at this
      exact absurd this.symm (hn.2 c (by simp))
  | cons c r ih =>
    have cw := hm.1; rw [List.map_cons, List.pairwise_cons] at cw
    have clt : ∀ x ∈ r, c.1 < x.1 := fun x hx => cw.1 _ (List.mem_map.2 ⟨x, hx, rfl⟩)
    cases n with
    | nil =>
      have := h c.1
      simp only [sparseGet, if_pos] at this
      exact absurd this (hm.2 c (by simp))
    | cons d t =>
      have dw := hn.1; rw [List.map_cons, List.pairwise_cons] at dw
      have dlt : ∀ x ∈ t, d.1 < x.1 := fun x hx => dw.1 _ (List.mem_map.2 ⟨x, hx, rfl⟩)
      have hk : c.1 = d.1 := by
        rcases Nat.lt_trichotomy c.1 d.1 with hlt | he | hgt
        · have := h c.1
          rw [sparseGet_of_lt (m := d :: t) (by
            intro x hx
            rcases List.mem_cons.1 hx with rfl | hx
            · exact hlt
            · exact lt_trans hlt (dlt x hx))] at this
          simp only [sparseGet, if_pos] at this
          exact absurd this (hm.2 c (by simp))
        · exact he
        · have := h d.1
          rw [sparseGet_of_lt (m := c :: r) (by
            intro x hx
            rcases List.mem_cons.1 hx with rfl | hx
            · exact hgt
            · exact lt_trans hgt (clt x hx))] at this
          simp only [sparseGet, if_pos] at this
          exact absurd this.symm (hn.2 d (by simp))
      have hv : c.2 = d.2 := by
        have := h c.1
        simp only [sparseGet, if_pos, hk] at this
        exact this
      have hcd : c = d := Prod.ext hk hv
      subst hcd
      congr 1
      refine ih ⟨cw.2, fun x hx => hm.2 x (by simp [hx])⟩ ⟨dw.2, fun x hx => hn.2 x (by simp [hx])⟩ fun a => ?_
      by_cases ha : c.1 = a
      · subst ha
        rw [sparseGet_of_lt clt, sparseGet_of_lt dlt]
      · have := h a
        simpa only [sparseGet, if_neg ha] using this

/-! ## Main storage and the keys -/

theorem State.setByte_wf {s : State} (a : Addr) (v : Byte) (h : Memory.wf s.mem) : Memory.wf (s.setByte a v).mem :=
  sparseSet_wf _ _ h

theorem State.setBytes_wf {s : State} (a : Addr) (bs : List Byte) (h : Memory.wf s.mem) :
    Memory.wf (s.setBytes a bs).mem := by
  induction bs generalizing s a with
  | nil => exact h
  | cons b bs ih => exact ih _ (State.setByte_wf a b h)

theorem State.setHalf_wf {s : State} (a : Addr) (v : Half) (h : Memory.wf s.mem) : Memory.wf (s.setHalf a v).mem :=
  State.setBytes_wf a _ h

theorem State.setWord_wf {s : State} (a : Addr) (v : Word) (h : Memory.wf s.mem) : Memory.wf (s.setWord a v).mem :=
  State.setBytes_wf a _ h

theorem State.setDword_wf {s : State} (a : Addr) (v : Dword) (h : Memory.wf s.mem) : Memory.wf (s.setDword a v).mem :=
  State.setBytes_wf a _ h

theorem State.setKey_wf {s : State} (b : Nat) (k : BitVec 2) (h : Keys.wf s.keys) : Keys.wf (s.setKey b k).keys :=
  sparseSet_wf _ _ h

theorem State.dmaAccess_wf {s : State} (y : DmaAccess) (h : Memory.wf s.mem) : Memory.wf (s.dmaAccess y).mem := by
  cases y with
  | write n w =>
    simp only [State.dmaAccess]
    split
    · exact State.setHalf_wf _ w h
    · exact h
  | read n =>
    simp only [State.dmaAccess]
    split <;> exact h

theorem State.dmaAccesses_wf {s : State} (ys : List DmaAccess) (h : Memory.wf s.mem) :
    Memory.wf (s.dmaAccesses ys).mem := by
  induction ys generalizing s with
  | nil => exact h
  | cons y ys ih => exact ih (State.dmaAccess_wf y h)

theorem State.access_wf {s : State} (h : Memory.wf s.mem) : Memory.wf s.access.mem := by
  unfold State.access
  split
  · exact h
  · exact State.dmaAccesses_wf _ h

theorem State.interrupt_wf {s : State} (c : IntClass) (code : Half) (ilc : BitVec 2) (h : Memory.wf s.mem) :
    Memory.wf (s.interrupt c code ilc).mem := by
  rw [State.interrupt, State.loadPsw_mem]
  exact State.setDword_wf _ _ (State.access_wf h)

/-- The storage and the keys after reset are in canonical form. -/
theorem State.reset_wf : Memory.wf State.reset.mem ∧ Keys.wf State.reset.keys := by decide

end Sys2Proof.Machine
end

