-- ==== Sys2Proof/Laws/Ops.lean ====
section
/-! SUPPORT.
The shared operations, one lemma for each thing they can do: registers, storage, keys, the checks of storage operands, taking
an interruption.
-/
namespace Sys2Proof.Machine

/-! ## Registers -/

theorem State.reg_setReg (s : State) (r q : Reg) (v : Word) :
    (s.setReg r v).reg q = if q = r then v else s.reg q := by
  unfold State.reg State.setReg
  simp only [Vector.getElem_set]
  by_cases h : q = r
  · simp [h]
  · have : ¬r.toNat = q.toNat := fun e => h (BitVec.eq_of_toNat_eq e.symm)
    simp [h, this]

@[simp] theorem State.reg_setReg_self (s : State) (r : Reg) (v : Word) : (s.setReg r v).reg r = v := by
  simp [State.reg_setReg]

theorem State.reg_setReg_ne (s : State) {r q : Reg} (v : Word) (h : q ≠ r) : (s.setReg r v).reg q = s.reg q := by
  simp [State.reg_setReg, h]

theorem State.reg_setLo (s : State) (r q : Reg) (v : Half) :
    (s.setLo r v).reg q = if q = r then (s.reg r).extractLsb' 16 16 ++ v else s.reg q := by
  unfold State.setLo
  rw [State.reg_setReg]
  rfl

theorem fpIndex_inj {r q : Reg} (hr : fpReg r = true) (hq : fpReg q = true) (h : fpIndex r = fpIndex q) : r = q := by
  revert r q; decide

theorem State.fp_setFp (s : State) (r q : Reg) (v : Word) (hr : fpReg r = true) (hq : fpReg q = true) :
    (s.setFp r v).fp q = if q = r then v else s.fp q := by
  unfold State.fp State.setFp
  simp only [Vector.getElem_set]
  by_cases h : q = r
  · simp [h]
  · have : ¬(fpIndex r).toNat = (fpIndex q).toNat := fun e => h (fpIndex_inj hr hq (BitVec.eq_of_toNat_eq e)).symm
    simp [h, this]

@[simp] theorem State.fp_setFp_self (s : State) (r : Reg) (v : Word) : (s.setFp r v).fp r = v := by
  simp [State.fp, State.setFp]

/-- The odd register of a pair is the one after its even register (R21). -/
theorem oddOf_even {r : Reg} (h : evenReg r = true) : oddOf r = r + 1#4 := by
  revert r; decide

theorem even_succ_ne {r : Reg} (h : evenReg r = true) : r + 1#4 ≠ r := by
  revert r; decide

theorem State.pair_even (s : State) {r : Reg} (h : evenReg r = true) : s.pair r = s.reg r ++ s.reg (r + 1#4) := by
  rw [State.pair, oddOf_even h]

theorem State.reg_setPair (s : State) (r q : Reg) (v : Dword) :
    (s.setPair r v).reg q =
      if q = oddOf r then v.extractLsb' 0 32 else if q = r then v.extractLsb' 32 32 else s.reg q := by
  unfold State.setPair
  rw [State.reg_setReg, State.reg_setReg]
  rfl

/-! ## Storage -/

theorem State.byte_setByte (s : State) (a x : Addr) (v : Byte) :
    (s.setByte a v).byte x = if x = a then v else s.byte x := by
  show sparseGet x.toNat (sparseSet a.toNat v s.mem) = _
  rw [sparseGet_set]
  by_cases h : x = a
  · simp [h]
  · have : ¬x.toNat = a.toNat := fun e => h (BitVec.eq_of_toNat_eq e)
    simp [h, this, State.byte]

/-- A store of bytes leaves every other byte. -/
theorem State.byte_setBytes_out (s : State) (a x : Addr) (bs : List Byte)
    (h : ∀ k, k < bs.length → x ≠ a + BitVec.ofNat 20 k) : (s.setBytes a bs).byte x = s.byte x := by
  induction bs generalizing s a with
  | nil => rfl
  | cons b bs ih =>
    have h0 := h 0 (by simp)
    have : (s.setBytes a (b :: bs)).byte x = (s.setByte a b).byte x := ih _ _ fun k hk => by
      have := h (k + 1) (by simpa using hk)
      rwa [show a + 1#20 + BitVec.ofNat 20 k = a + BitVec.ofNat 20 (k + 1) by
        rw [BitVec.add_assoc, BitVec.ofNat_add, BitVec.add_comm 1#20]]
    rw [this, State.byte_setByte, if_neg (by simpa using h0)]

/-- Addresses fewer than 2^20 apart are distinct. -/
theorem addr_ofNat_ne {a : Addr} {j k : Nat} (hj : j < 2 ^ 20) (hk : k < 2 ^ 20) (h : j ≠ k) :
    a + BitVec.ofNat 20 j ≠ a + BitVec.ofNat 20 k := by
  intro e
  have e' : BitVec.ofNat 20 j = BitVec.ofNat 20 k := by simpa using e
  have := congrArg BitVec.toNat e'
  simp only [BitVec.toNat_ofNat] at this
  rw [Nat.mod_eq_of_lt hj, Nat.mod_eq_of_lt hk] at this
  exact h this

/-- The bytes that a store leaves in its field. -/
theorem State.byte_setBytes_in (s : State) (a : Addr) (bs : List Byte) (hn : bs.length ≤ 2 ^ 20) (k : Nat)
    (hk : k < bs.length) : (s.setBytes a bs).byte (a + BitVec.ofNat 20 k) = bs[k] := by
  induction bs generalizing s a k with
  | nil => simp at hk
  | cons b bs ih =>
    simp only [List.length_cons] at hn hk
    cases k with
    | zero =>
      have := State.byte_setBytes_out (s.setByte a b) (a + 1#20) (a + BitVec.ofNat 20 0) bs fun j hj => by
        rw [show a + 1#20 + BitVec.ofNat 20 j = a + BitVec.ofNat 20 (j + 1) by
          rw [BitVec.add_assoc, BitVec.ofNat_add, BitVec.add_comm 1#20]]
        exact addr_ofNat_ne (by omega) (by omega) (by omega)
      show ((s.setByte a b).setBytes (a + 1#20) bs).byte _ = _
      rw [this, State.byte_setByte]
      simp
    | succ k =>
      have := ih (s.setByte a b) (a + 1#20) (by omega) k (by omega)
      rw [show a + 1#20 + BitVec.ofNat 20 k = a + BitVec.ofNat 20 (k + 1) by
        rw [BitVec.add_assoc, BitVec.ofNat_add, BitVec.add_comm 1#20]] at this
      rw [List.getElem_cons_succ]
      exact this

@[simp] theorem State.bytes_length (s : State) (a : Addr) (n : Nat) : (s.bytes a n).length = n := by
  induction n generalizing a with
  | zero => rfl
  | succ n ih => simp [State.bytes, ih]

theorem State.bytes_getElem (s : State) (a : Addr) (n k : Nat) (h : k < (s.bytes a n).length) :
    (s.bytes a n)[k] = s.byte (a + BitVec.ofNat 20 k) := by
  induction n generalizing a k with
  | zero => simp [State.bytes] at h
  | succ n ih =>
    cases k with
    | zero => simp [State.bytes]
    | succ k =>
      simp only [State.bytes, List.getElem_cons_succ]
      rw [ih, BitVec.add_assoc, BitVec.ofNat_add, BitVec.add_comm 1#20]

/-- A field reads as a list of bytes exactly when each of its bytes does. -/
theorem State.bytes_eq_iff (s : State) (a : Addr) (bs : List Byte) :
    s.bytes a bs.length = bs ↔ ∀ k (h : k < bs.length), s.byte (a + BitVec.ofNat 20 k) = bs[k] := by
  constructor
  · intro e k hk
    rw [← State.bytes_getElem s a bs.length k (by simpa using hk)]
    simp [e]
  · intro h
    refine List.ext_getElem (by simp) fun k h1 h2 => ?_
    rw [State.bytes_getElem]; exact h k h2

/-- A read after a write of the same field. -/
theorem State.bytes_setBytes (s : State) (a : Addr) (bs : List Byte) (hn : bs.length ≤ 2 ^ 20) :
    (s.setBytes a bs).bytes a bs.length = bs :=
  (State.bytes_eq_iff _ _ _).2 fun k h => State.byte_setBytes_in s a bs hn k h

/-- The two halves of a quantity, joined. -/
theorem slice_join {n : Nat} (v : BitVec (n + n)) : slice v 0 n ++ slice v n n = v := by
  simp only [slice, Nat.sub_zero, Nat.add_sub_cancel, Nat.sub_self]
  rw [BitVec.extractLsb'_append_extractLsb'_eq_extractLsb' (by omega)]
  exact BitVec.extractLsb'_eq_self

/-- A halfword is its two bytes. -/
theorem State.half_of_bytes {s : State} {a : Addr} {v : Half} (h0 : s.byte a = slice v 0 8)
    (h1 : s.byte (a + 1#20) = slice v 8 8) : s.half a = v := by
  rw [State.half, h0, h1]; exact slice_join (n := 8) v

/-- A word is its two halfwords. -/
theorem State.word_of_halves {s : State} {a : Addr} {v : Word} (h0 : s.half a = slice v 0 16)
    (h1 : s.half (a + 2#20) = slice v 16 16) : s.word a = v := by
  rw [State.word, h0, h1]; exact slice_join (n := 16) v

/-- A double word is its two words. -/
theorem State.dword_of_words {s : State} {a : Addr} {v : Dword} (h0 : s.word a = slice v 0 32)
    (h1 : s.word (a + 4#20) = slice v 32 32) : s.dword a = v := by
  rw [State.dword, h0, h1]; exact slice_join (n := 32) v

theorem slice_slice {w : Nat} (v : BitVec w) (i m j n : Nat) (h : i + m ≤ w) (hj : j + n ≤ m) :
    slice (slice v i m) j n = slice v (i + j) n := by
  unfold slice
  ext k hk
  simp only [BitVec.getElem_extractLsb', BitVec.getLsbD_extractLsb']
  rw [decide_eq_true (by omega), Bool.true_and]
  congr 1
  omega

/-- A word is its four bytes. -/
theorem State.word_of_bytes {s : State} {a : Addr} {v : Word} (h0 : s.byte a = slice v 0 8)
    (h1 : s.byte (a + 1#20) = slice v 8 8) (h2 : s.byte (a + 2#20) = slice v 16 8)
    (h3 : s.byte (a + 3#20) = slice v 24 8) : s.word a = v := by
  apply State.word_of_halves
  · apply State.half_of_bytes
    · rw [h0, slice_slice _ _ _ _ _ (by omega) (by omega)]
    · rw [h1, slice_slice _ _ _ _ _ (by omega) (by omega)]
  · apply State.half_of_bytes
    · rw [h2, slice_slice _ _ _ _ _ (by omega) (by omega)]
    · rw [BitVec.add_assoc, show (2#20 + 1#20 : Addr) = 3#20 from rfl, h3, slice_slice _ _ _ _ _ (by omega) (by omega)]

theorem State.half_setHalf (s : State) (a : Addr) (v : Half) : (s.setHalf a v).half a = v := by
  have h := State.byte_setBytes_in s a (bytesOfHalf v) (show 2 ≤ 2 ^ 20 by omega)
  apply State.half_of_bytes
  · have := h 0 (show 0 < 2 by omega)
    rwa [BitVec.add_zero] at this
  · exact h 1 (show 1 < 2 by omega)

theorem State.word_setWord (s : State) (a : Addr) (v : Word) : (s.setWord a v).word a = v := by
  have h := State.byte_setBytes_in s a (bytesOfWord v) (show 4 ≤ 2 ^ 20 by omega)
  apply State.word_of_bytes
  · have := h 0 (show 0 < 4 by omega)
    rwa [BitVec.add_zero] at this
  · exact h 1 (show 1 < 4 by omega)
  · exact h 2 (show 2 < 4 by omega)
  · exact h 3 (show 3 < 4 by omega)

theorem State.dword_setDword (s : State) (a : Addr) (v : Dword) : (s.setDword a v).dword a = v := by
  have h := State.byte_setBytes_in s a (bytesOfDword v) (show 8 ≤ 2 ^ 20 by omega)
  apply State.dword_of_words
  · apply State.word_of_bytes
    · have := h 0 (show 0 < 8 by omega)
      rwa [BitVec.add_zero] at this
    · exact h 1 (show 1 < 8 by omega)
    · exact h 2 (show 2 < 8 by omega)
    · exact h 3 (show 3 < 8 by omega)
  · apply State.word_of_bytes
    · exact h 4 (show 4 < 8 by omega)
    · rw [BitVec.add_assoc]; exact h 5 (show 5 < 8 by omega)
    · rw [BitVec.add_assoc]; exact h 6 (show 6 < 8 by omega)
    · rw [BitVec.add_assoc]; exact h 7 (show 7 < 8 by omega)

/-- A store of a double word leaves every other byte. -/
theorem State.byte_setDword_out (s : State) (a x : Addr) (v : Dword) (h : ∀ k, k < 8 → x ≠ a + BitVec.ofNat 20 k) :
    (s.setDword a v).byte x = s.byte x :=
  State.byte_setBytes_out s a x _ h

/-- Equal bytes make equal halfwords. -/
theorem State.half_congr {s t : State} {a b : Addr} (h0 : s.byte a = t.byte b)
    (h1 : s.byte (a + 1#20) = t.byte (b + 1#20)) : s.half a = t.half b := by
  rw [State.half, State.half, h0, h1]

/-- Equal bytes make equal words. -/
theorem State.word_congr {s t : State} {a : Addr}
    (h : ∀ k, k < 4 → s.byte (a + BitVec.ofNat 20 k) = t.byte (a + BitVec.ofNat 20 k)) : s.word a = t.word a := by
  have h0 := h 0 (by omega)
  have h3 := h 3 (by omega)
  rw [BitVec.add_zero] at h0
  rw [show a + BitVec.ofNat 20 3 = a + 2#20 + 1#20 by rw [BitVec.add_assoc]; rfl] at h3
  have e0 : s.half a = t.half a := State.half_congr h0 (h 1 (by omega))
  have e1 : s.half (a + 2#20) = t.half (a + 2#20) := State.half_congr (h 2 (by omega)) h3
  rw [State.word, State.word, e0, e1]

/-- Equal bytes make equal double words. -/
theorem State.dword_congr {s t : State} {a : Addr}
    (h : ∀ k, k < 8 → s.byte (a + BitVec.ofNat 20 k) = t.byte (a + BitVec.ofNat 20 k)) : s.dword a = t.dword a := by
  rw [State.dword, State.dword, State.word_congr (t := t) (a := a) fun k hk => h k (by omega),
    State.word_congr (t := t) (a := a + 4#20) fun k hk => ?_]
  have := h (4 + k) (by omega)
  rwa [BitVec.ofNat_add, ← BitVec.add_assoc] at this

/-! ## Keys -/

theorem State.key_setKey (s : State) (b c : Nat) (k : BitVec 2) :
    (s.setKey b k).key c = if c = b then k else s.key c :=
  sparseGet_set b c k s.keys

/-! ## Reads and writes where DMA does nothing in between -/

/-- An access that DMA does not precede finds and leaves the state as it is. -/
theorem State.readByte_quiet {s : State} (h : s.dma = []) (a : Addr) : s.readByte a = (s.byte a, s) := by
  simp [State.readByte, h]

theorem State.readHalf_quiet {s : State} (h : s.dma = []) (a : Addr) : s.readHalf a = (s.half a, s) := by
  simp [State.readHalf, h]

theorem State.readWord_quiet {s : State} (h : s.dma = []) (a : Addr) : s.readWord a = (s.word a, s) := by
  simp [State.readWord, State.readHalf_quiet h, State.word]

theorem State.readDword_quiet {s : State} (h : s.dma = []) (a : Addr) : s.readDword a = (s.dword a, s) := by
  simp [State.readDword, State.readWord_quiet h, State.dword]

theorem State.readHalves_quiet {s : State} (h : s.dma = []) (a : Addr) (n : Nat) :
    s.readHalves a n = (s.bytes a (2 * n), s) := by
  induction n generalizing a with
  | zero => rfl
  | succ n ih =>
    simp only [State.readHalves, State.access_quiet h, ih]
    rw [show 2 * (n + 1) = 2 * n + 1 + 1 by omega]
    simp only [State.bytes, BitVec.add_assoc]
    rfl

theorem State.writeByte_quiet {s : State} (h : s.dma = []) (a : Addr) (v : Byte) : s.writeByte a v = s.setByte a v := by
  simp [State.writeByte, h]

theorem State.writeHalf_quiet {s : State} (h : s.dma = []) (a : Addr) (v : Half) : s.writeHalf a v = s.setHalf a v := by
  simp [State.writeHalf, h]

theorem State.writeWord_quiet {s : State} (h : s.dma = []) (a : Addr) (v : Word) : s.writeWord a v = s.setWord a v := by
  rw [State.writeWord, State.writeHalf_quiet h, State.writeHalf_quiet (by simpa using h)]
  simp only [State.setHalf, State.setWord, bytesOfHalf, bytesOfWord, State.setBytes]
  rw [slice_slice _ _ _ _ _ (by omega) (by omega), slice_slice _ _ _ _ _ (by omega) (by omega),
    slice_slice _ _ _ _ _ (by omega) (by omega), slice_slice _ _ _ _ _ (by omega) (by omega)]
  simp only [BitVec.add_assoc]
  rfl

/-- Storing the bytes of two fields that follow each other. -/
theorem State.setBytes_append (s : State) (a : Addr) (xs ys : List Byte) :
    s.setBytes a (xs ++ ys) = (s.setBytes a xs).setBytes (a + BitVec.ofNat 20 xs.length) ys := by
  induction xs generalizing s a with
  | nil => simp [State.setBytes]
  | cons x xs ih =>
    simp only [List.cons_append, State.setBytes, List.length_cons]
    rw [ih, BitVec.add_assoc, BitVec.ofNat_add, BitVec.add_comm 1#20]

theorem State.writeDword_quiet {s : State} (h : s.dma = []) (a : Addr) (v : Dword) :
    s.writeDword a v = s.setDword a v := by
  rw [State.writeDword, State.writeWord_quiet h, State.writeWord_quiet (by simpa using h), State.setDword, bytesOfDword,
    State.setBytes_append]
  rfl

/-! ## Checks of storage operands -/

theorem State.availableN_iff (s : State) (a : Addr) (n : Nat) : s.availableN a n = true ↔ s.Installed a n := by
  simp [State.availableN, State.available, State.Installed]

theorem State.cpuProtectedN_iff (s : State) (a : Addr) (n : Nat) : s.cpuProtectedN a n = false ↔ s.Unprotected a n := by
  simp [State.cpuProtectedN, State.Unprotected]

/-- Reading meets nothing exactly where the operand is readable. -/
theorem State.loadError_none (s : State) (a : Addr) (n align : Nat) :
    s.loadError a n align = none ↔ s.Readable a n align := by
  unfold State.loadError State.Readable
  rw [← State.availableN_iff]
  split
  · simp_all
  · split <;> simp_all

/-- Storing meets nothing exactly where the operand is writable. -/
theorem State.storeError_none (s : State) (a : Addr) (n align : Nat) :
    s.storeError a n align = none ↔ s.Writable a n align := by
  unfold State.storeError State.Writable State.Readable
  rw [← State.availableN_iff, ← State.cpuProtectedN_iff]
  split
  · simp_all
  · split
    · simp_all
    · split <;> simp_all

/-- A readable operand is read. -/
theorem afterLoad_readable {s : State} {a : Addr} {n align : Nat} (h : s.Readable a n align) (spoil : State → State)
    (k : Result) : afterLoad s a n align spoil k = k := by
  unfold afterLoad
  rw [(State.loadError_none s a n align).2 h]

/-- A readable operand goes to the continuation, with the state as it is where DMA does nothing in between. -/
theorem withByte_quiet {s : State} {a : Addr} (hq : s.dma = []) (h : s.Readable a 1 1) (spoil : State → State)
    (k : Byte → State → Result) : withByte s a spoil k = k (s.byte a) s := by
  rw [withByte, afterLoad_readable h, State.readByte_quiet hq]; rfl

theorem withHalf_quiet {s : State} {a : Addr} (hq : s.dma = []) (h : s.Readable a 2 2) (spoil : State → State)
    (k : Half → State → Result) : withHalf s a spoil k = k (s.half a) s := by
  rw [withHalf, afterLoad_readable h, State.readHalf_quiet hq]; rfl

theorem withWord_quiet {s : State} {a : Addr} (hq : s.dma = []) (h : s.Readable a 4 4) (spoil : State → State)
    (k : Word → State → Result) : withWord s a spoil k = k (s.word a) s := by
  rw [withWord, afterLoad_readable h, State.readWord_quiet hq]; rfl

theorem withDword_quiet {s : State} {a : Addr} {align : Nat} (hq : s.dma = []) (h : s.Readable a 8 align)
    (spoil : State → State) (k : Dword → State → Result) : withDword s a align spoil k = k (s.dword a) s := by
  rw [withDword, afterLoad_readable h, State.readDword_quiet hq]; rfl

/-- A writable operand is stored. -/
theorem afterStoreCheck_writable {s : State} {a : Addr} {n align : Nat} (h : s.Writable a n align) (k : Result) :
    afterStoreCheck s a n align k = k := by
  unfold afterStoreCheck
  rw [(State.storeError_none s a n align).2 h]

/-- An operand that is not installed is an addressing exception. -/
theorem afterLoad_addressing {s : State} {a : Addr} {n : Nat} (align : Nat) (h : ¬s.Installed a n)
    (spoil : State → State) (k : Result) : afterLoad s a n align spoil k = raise .addressing (spoil s) := by
  unfold afterLoad State.loadError
  rw [← State.availableN_iff] at h
  simp [h]

/-- An installed operand that is not aligned is a specification exception. -/
theorem afterLoad_specification {s : State} {a : Addr} {n align : Nat} (h : s.Installed a n) (ha : a.toNat % align ≠ 0)
    (spoil : State → State) (k : Result) : afterLoad s a n align spoil k = raise .specification s := by
  unfold afterLoad State.loadError
  rw [← State.availableN_iff] at h
  simp [h, ha]

/-- Everything that reading an operand can lead to. -/
theorem afterLoad_cases (s : State) (a : Addr) (n align : Nat) (spoil : State → State) (k : Result) :
    (s.Readable a n align ∧ afterLoad s a n align spoil k = k) ∨
    (¬s.Installed a n ∧ afterLoad s a n align spoil k = raise .addressing (spoil s)) ∨
    (s.Installed a n ∧ a.toNat % align ≠ 0 ∧ afterLoad s a n align spoil k = raise .specification s) := by
  by_cases h : s.Installed a n
  · by_cases ha : a.toNat % align = 0
    · exact .inl ⟨⟨h, ha⟩, afterLoad_readable ⟨h, ha⟩ spoil k⟩
    · exact .inr (.inr ⟨h, ha, afterLoad_specification h ha spoil k⟩)
  · exact .inr (.inl ⟨h, afterLoad_addressing align h spoil k⟩)

/-- Everything that checking a store can lead to. -/
theorem afterStoreCheck_cases (s : State) (a : Addr) (n align : Nat) (k : Result) :
    (s.Writable a n align ∧ afterStoreCheck s a n align k = k) ∨
    (¬s.Installed a n ∧ afterStoreCheck s a n align k = raise .addressing s) ∨
    (s.Installed a n ∧ a.toNat % align ≠ 0 ∧ afterStoreCheck s a n align k = raise .specification s) ∨
    (s.Readable a n align ∧ ¬s.Unprotected a n ∧ afterStoreCheck s a n align k = raise .protection s) := by
  by_cases h : s.Installed a n
  · by_cases ha : a.toNat % align = 0
    · by_cases hp : s.Unprotected a n
      · exact .inl ⟨⟨⟨h, ha⟩, hp⟩, afterStoreCheck_writable ⟨⟨h, ha⟩, hp⟩ k⟩
      · refine .inr (.inr (.inr ⟨⟨h, ha⟩, hp, ?_⟩))
        rw [← State.cpuProtectedN_iff] at hp
        rw [← State.availableN_iff] at h
        simp [afterStoreCheck, State.storeError, h, ha, hp]
    · refine .inr (.inr (.inl ⟨h, ha, ?_⟩))
      rw [← State.availableN_iff] at h
      simp [afterStoreCheck, State.storeError, h, ha]
  · refine .inr (.inl ⟨h, ?_⟩)
    rw [← State.availableN_iff] at h
    simp [afterStoreCheck, State.storeError, h]

theorem needEven_even {s : State} {r : Reg} (h : evenReg r = true) (k : Result) : needEven s r k = k := by
  simp [needEven, h]

theorem needEven_odd {s : State} {r : Reg} (h : evenReg r = false) (k : Result) :
    needEven s r k = raise .specification s := by
  simp [needEven, h]

theorem needFp_fp {s : State} {r : Reg} (h : fpReg r = true) (k : Result) : needFp s r k = k := by
  simp [needFp, h]

theorem needFp_other {s : State} {r : Reg} (h : fpReg r = false) (k : Result) :
    needFp s r k = raise .specification s := by
  simp [needFp, h]

theorem needSupervisor_supervisor {s : State} (h : s.psw.p = false) (k : Result) : needSupervisor s k = k := by
  simp [needSupervisor, h]

theorem needSupervisor_problem {s : State} (h : s.psw.p = true) (k : Result) :
    needSupervisor s k = raise .privileged s := by
  simp [needSupervisor, h]

/-! ## Taking an interruption -/

theorem raise_eq (e : ProgEx) (s : State) : raise e s = .next (s.interrupt .program e.code s.ilc) := rfl

theorem IntClass.oldLoc_ne_newLoc (c : IntClass) {j k : Nat} (hj : j < 8) (hk : k < 8) :
    c.newLoc + BitVec.ofNat 20 j ≠ c.oldLoc + BitVec.ofNat 20 k := by
  cases c <;> (interval_cases j <;> interval_cases k <;> decide)

/-- An interruption stores eight bytes of storage and no others. -/
theorem State.interrupt_byte_out (s : State) (c : IntClass) (code : Half) (ilc : BitVec 2) (x : Addr)
    (h : ∀ k, k < 8 → x ≠ c.oldLoc + BitVec.ofNat 20 k) : (s.interrupt c code ilc).byte x = s.access.byte x := by
  rw [State.interrupt, State.loadPsw_byte, State.byte_setDword_out _ _ _ _ h, State.setKey_byte]

/-- The old PSW lies at its location. -/
theorem State.interrupt_oldLoc (s : State) (c : IntClass) (code : Half) (ilc : BitVec 2) :
    (s.interrupt c code ilc).dword c.oldLoc = s.oldPsw c code ilc := by
  have : (s.interrupt c code ilc).dword c.oldLoc =
      ((s.access.setKey 0 1#2).setDword c.oldLoc (s.oldPsw c code ilc)).dword c.oldLoc := by
    exact State.dword_congr fun k _ => by rw [State.interrupt, State.loadPsw_byte]
  rw [this, State.dword_setDword]

/-- The new PSW is current, as it stood before. -/
theorem State.interrupt_psw (s : State) (c : IntClass) (code : Half) (ilc : BitVec 2) :
    (s.interrupt c code ilc).psw = Psw.unpack (s.access.dword c.newLoc) := by
  rw [State.interrupt, State.loadPsw_psw_eq]
  refine congrArg Psw.unpack (State.dword_congr fun k hk => ?_)
  rw [State.byte_setDword_out _ _ _ _ fun j hj => c.oldLoc_ne_newLoc hk hj, State.setKey_byte]

/-- An interruption sets the key of block 0 and no other. -/
theorem State.interrupt_key (s : State) (c : IntClass) (code : Half) (ilc : BitVec 2) (b : Nat) :
    (s.interrupt c code ilc).key b = if b = 0 then 1#2 else s.key b := by
  rw [State.interrupt, State.loadPsw_key, State.setDword_key, State.key_setKey, State.access_key]

/-- DMA does not look at whether a subject of EXECUTE is under way. -/
theorem State.access_withExecute (s : State) (b : Bool) :
    ({ s with inExecute := b } : State).access = { s.access with inExecute := b } := by
  have one : ∀ (t : State) (x : DmaAccess),
      ({ t with inExecute := b } : State).dmaAccess x = { t.dmaAccess x with inExecute := b } := by
    intro t x
    cases x <;> simp only [State.dmaAccess]
    · change (if (t.availableN _ 2 && !t.dmaProtected _) = true then _ else _) = _
      split <;> rfl
    · change (if t.availableN _ 2 = true then _ else _) = _
      split <;> rfl
  have all : ∀ (xs : List DmaAccess) (t : State),
      ({ t with inExecute := b } : State).dmaAccesses xs = { t.dmaAccesses xs with inExecute := b } := by
    intro xs
    induction xs with
    | nil => intro t; rfl
    | cons x xs ih => intro t; simp only [State.dmaAccesses, one, ih]
  unfold State.access
  cases h : s.dma with
  | nil => simp only [h]
  | cons xs r => simp only; exact all xs { s with dma := r }

/-- An exception of a subject of EXECUTE leaves the machine outside EXECUTE. -/
theorem leaveExecute_raise {s : State} (h : s.inExecute = false) (e : ProgEx) :
    leaveExecute (raise e { s with inExecute := true }) = raise e s := by
  have hs : ({ s with inExecute := false } : State) = s := by rw [← h]
  have := s.access_withExecute false
  rw [hs] at this
  simp only [raise, leaveExecute, State.interrupt, State.access_withExecute]
  rw [this]
  rfl
end Sys2Proof.Machine
end

