-- ==== Sys2Proof/Laws/Operates.lean ====
section
/-! SUPPORT.
What the operations of an instruction can do to the machine, said once: `Operates s t`. Every shared operation that an
instruction's meaning is made of has one lemma here; the promises of the whole machine are proved through them.
-/
namespace Sys2Proof.Machine

/-- `t` is `s` after operations of an instruction: registers, condition code, program mask, instruction address, storage and
the count of free values may differ, and some DMA accesses have taken place; no byte protected against the CPU has changed
that DMA spares or may not change, storage keeps its canonical form, and nothing is listed outside installed storage. -/
def Operates (s t : State) : Prop :=
  t = { s with gr := t.gr, fpr := t.fpr, psw := { s.psw with cc := t.psw.cc, pm := t.psw.pm, ia := t.psw.ia },
               mem := t.mem, dma := t.dma, dmaOut := t.dmaOut, drawn := t.drawn } ∧
  (∀ x : Addr, s.cpuProtected x = true → s.DmaSpares x ∨ s.dmaProtected x = true → t.byte x = s.byte x) ∧
  (Memory.wf s.mem → Memory.wf t.mem) ∧
  ((∀ c ∈ s.mem, c.1 < s.params.memSize) → ∀ c ∈ t.mem, c.1 < s.params.memSize) ∧ t.dma <:+ s.dma

theorem Operates.refl (s : State) : Operates s s := ⟨rfl, fun _ _ _ => rfl, id, id, List.suffix_rfl⟩

/-- Operations that leave storage alone. -/
theorem Operates.plain {s t : State}
    (h : t = { s with gr := t.gr, fpr := t.fpr, psw := { s.psw with cc := t.psw.cc, pm := t.psw.pm, ia := t.psw.ia },
                      drawn := t.drawn }) : Operates s t := by
  rw [h]
  exact ⟨rfl, fun _ _ _ => rfl, id, id, List.suffix_rfl⟩

theorem Operates.params {s t : State} (h : Operates s t) : t.params = s.params := by rw [h.1]
theorem Operates.keys {s t : State} (h : Operates s t) : t.keys = s.keys := by rw [h.1]

theorem Operates.available {s t : State} (h : Operates s t) (x : Addr) : t.available x = s.available x := by
  unfold State.available; rw [h.params]

theorem Operates.cpuProtected {s t : State} (h : Operates s t) (x : Addr) : t.cpuProtected x = s.cpuProtected x := by
  unfold State.cpuProtected State.key; rw [h.keys]

theorem Operates.dmaProtected {s t : State} (h : Operates s t) (x : Addr) : t.dmaProtected x = s.dmaProtected x := by
  unfold State.dmaProtected State.key; rw [h.keys]

theorem Operates.spares {s t : State} (h : Operates s t) {x : Addr} (k : s.DmaSpares x) : t.DmaSpares x :=
  fun xs hx => k xs (h.2.2.2.2.subset hx)

theorem Operates.installed {s t : State} (h : Operates s t) {a : Addr} {n : Nat} (k : s.Installed a n) :
    t.Installed a n := fun j hj => by rw [h.params]; exact k j hj

theorem Operates.unprotected {s t : State} (h : Operates s t) {a : Addr} {n : Nat} (k : s.Unprotected a n) :
    t.Unprotected a n := fun j hj => by rw [h.cpuProtected]; exact k j hj

theorem Operates.trans {s t u : State} (h : Operates s t) (k : Operates t u) : Operates s u := by
  refine ⟨?_, fun x hx hd => ?_, fun w => k.2.2.1 (h.2.2.1 w), fun w => ?_, k.2.2.2.2.trans h.2.2.2.2⟩
  · have h1 := h.1
    have k1 := k.1
    generalize u.gr = g, u.fpr = f, u.psw = p, u.mem = m, u.dma = y, u.dmaOut = z, u.drawn = d at *
    rw [k1, h1]
  · rw [k.2.1 x (by rw [h.cpuProtected, hx]) (hd.imp h.spares fun e => by rw [h.dmaProtected, e]), h.2.1 x hx hd]
  · have := k.2.2.2.1
    rw [h.params] at this
    exact this (h.2.2.2.1 w)

/-! ## Registers and flags -/

theorem operates_setReg (s : State) (r : Reg) (v : Word) : Operates s (s.setReg r v) := .plain rfl
theorem operates_setLo (s : State) (r : Reg) (v : Half) : Operates s (s.setLo r v) := .plain rfl
theorem operates_setPair (s : State) (r : Reg) (v : Dword) : Operates s (s.setPair r v) := .plain rfl
theorem operates_setFp (s : State) (r : Reg) (v : Word) : Operates s (s.setFp r v) := .plain rfl
theorem operates_setCc (s : State) (c : Cc) : Operates s (s.setCc c) := .plain rfl
theorem operates_setIa (s : State) (t : Addr) : Operates s (s.setIa t) := .plain rfl
theorem operates_setPm (s : State) (m : BitVec 4) : Operates s (s.setPm m) := .plain rfl
theorem operates_draw (s : State) : Operates s s.draw := .plain rfl

/-! ## Storage -/

/-- A byte stored into installed, unprotected storage. -/
theorem operates_setByte {s : State} {a : Addr} (v : Byte) (ha : s.available a = true) (hp : s.cpuProtected a = false) :
    Operates s (s.setByte a v) := by
  refine ⟨rfl, fun x hx _ => ?_, State.setByte_wf a v, fun w c hc => ?_, List.suffix_rfl⟩
  · rw [State.byte_setByte, if_neg fun e => by simp [e, hp] at hx]
  · rcases mem_sparseSet hc with e | e
    · rw [e]; simpa [State.available] using ha
    · exact w c e

/-- The bytes after the first of a field. -/
theorem addr_succ (a : Addr) (k : Nat) : a + 1#20 + BitVec.ofNat 20 k = a + BitVec.ofNat 20 (k + 1) := by
  rw [BitVec.add_assoc, BitVec.ofNat_add, BitVec.add_comm 1#20]

/-- Bytes stored into installed, unprotected storage. -/
theorem operates_setBytes {s : State} {a : Addr} (bs : List Byte) (hi : s.Installed a bs.length)
    (hp : s.Unprotected a bs.length) : Operates s (s.setBytes a bs) := by
  induction bs generalizing s a with
  | nil => exact .refl s
  | cons b bs ih =>
    have h0 : Operates s (s.setByte a b) :=
      operates_setByte b (by simpa [State.available] using hi 0 (by simp)) (by simpa using hp 0 (by simp))
    refine h0.trans (ih (fun k hk => ?_) fun k hk => ?_)
    · rw [addr_succ]; exact hi (k + 1) (by simpa using hk)
    · rw [addr_succ]; exact hp (k + 1) (by simpa using hk)

theorem operates_setHalf {s : State} {a : Addr} (v : Half) (hi : s.Installed a 2) (hp : s.Unprotected a 2) :
    Operates s (s.setHalf a v) := operates_setBytes (bytesOfHalf v) hi hp

/-! ## Direct memory access -/

/-- A halfword lies in one block. -/
theorem blockOf_halfAddr (h : BitVec 19) : blockOf (halfAddr h + 1#20) = blockOf (halfAddr h) := by
  have e : (halfAddr h).toNat = 2 * h.toNat := by
    unfold halfAddr
    rw [BitVec.toNat_append]
    simp [Nat.shiftLeft_eq, Nat.mul_comm]
  have := h.isLt
  unfold blockOf
  rw [BitVec.toNat_add, e]
  simp only [BitVec.toNat_ofNat]
  omega

/-- Bytes stored into installed storage keep it all in installed storage. -/
theorem State.setBytes_installed {s : State} {a : Addr} (bs : List Byte) (hi : s.Installed a bs.length)
    (hm : ∀ c ∈ s.mem, c.1 < s.params.memSize) : ∀ c ∈ (s.setBytes a bs).mem, c.1 < s.params.memSize := by
  induction bs generalizing s a with
  | nil => exact hm
  | cons b bs ih =>
    refine ih (s := s.setByte a b) (fun k hk => ?_) fun c hc => ?_
    · rw [addr_succ]; exact hi (k + 1) (by simpa using hk)
    · rcases mem_sparseSet hc with e | e
      · rw [e]; simpa using hi 0 (by simp)
      · exact hm c e

/-- What one DMA access can do to storage. -/
theorem State.dmaAccess_installed {s : State} (y : DmaAccess) (hm : ∀ c ∈ s.mem, c.1 < s.params.memSize) :
    ∀ c ∈ (s.dmaAccess y).mem, c.1 < s.params.memSize := by
  cases y with
  | write h w =>
    simp only [State.dmaAccess]
    split
    · rename_i k
      simp only [Bool.and_eq_true, State.availableN_iff] at k
      exact State.setBytes_installed (bytesOfHalf w) k.1 hm
    · exact hm
  | read h =>
    simp only [State.dmaAccess]
    split <;> exact hm

/-- A DMA access changes no byte that it does not store into or that is protected against DMA. -/
theorem State.dmaAccess_byte_same {s : State} {y : DmaAccess} {x : Addr}
    (h : (∀ n w, y = .write n w → x ≠ halfAddr n ∧ x ≠ halfAddr n + 1#20) ∨ s.dmaProtected x = true) :
    (s.dmaAccess y).byte x = s.byte x := by
  cases y with
  | write n w =>
    simp only [State.dmaAccess]
    split
    · rename_i k
      simp only [Bool.and_eq_true, Bool.not_eq_true'] at k
      refine State.byte_setBytes_out s _ _ (bytesOfHalf w) fun j hj e => ?_
      have hj : j = 0 ∨ j = 1 := by change j < 2 at hj; omega
      rcases h with h | h
      · have := h n w rfl
        rcases hj with rfl | rfl
        · exact this.1 (by simpa using e)
        · exact this.2 e
      · have hb : blockOf x = blockOf (halfAddr n) := by
          rcases hj with rfl | rfl
          · simp [e]
          · rw [e]; exact blockOf_halfAddr n
        simp only [State.dmaProtected] at h k
        rw [hb, k.2] at h
        cases h
    · rfl
  | read n =>
    simp only [State.dmaAccess]
    split <;> rfl

/-- What DMA accesses to come can do to the machine. -/
theorem operates_dmaAccesses (ys : List DmaAccess) (s : State) :
    (∀ x, (∀ n w, DmaAccess.write n w ∈ ys → x ≠ halfAddr n ∧ x ≠ halfAddr n + 1#20) ∨ s.dmaProtected x = true →
      (s.dmaAccesses ys).byte x = s.byte x) ∧
    ((∀ c ∈ s.mem, c.1 < s.params.memSize) → ∀ c ∈ (s.dmaAccesses ys).mem, c.1 < s.params.memSize) := by
  induction ys generalizing s with
  | nil => exact ⟨fun _ _ => rfl, id⟩
  | cons y ys ih =>
    have ih := ih (s.dmaAccess y)
    rw [State.dmaAccess_params] at ih
    refine ⟨fun x h => ?_, fun hm => ih.2 (State.dmaAccess_installed y hm)⟩
    show ((s.dmaAccess y).dmaAccesses ys).byte x = _
    rw [ih.1 x (h.imp (fun h n w hn => h n w (by simp [hn])) fun e => by simpa [State.dmaProtected] using e)]
    exact State.dmaAccess_byte_same (h.imp (fun h n w hn => h n w (by simp [hn])) id)

/-- The moment of an access. -/
theorem operates_access (s : State) : Operates s s.access := by
  refine ⟨by rw [s.access_eq], fun x _ h => ?_, State.access_wf, ?_, ?_⟩
  · unfold State.access
    split
    · rfl
    · rename_i xs r e
      exact (operates_dmaAccesses xs { s with dma := r }).1 x (h.imp (fun h => h xs (by simp [e])) id)
  · unfold State.access
    split
    · exact id
    · rename_i xs r e
      exact (operates_dmaAccesses xs { s with dma := r }).2
  · unfold State.access
    split
    · exact List.suffix_rfl
    · rename_i xs r e
      rw [State.dmaAccesses_dma, e]
      exact List.suffix_cons xs r

theorem operates_readByte (s : State) (a : Addr) : Operates s (s.readByte a).2 := operates_access s
theorem operates_readHalf (s : State) (a : Addr) : Operates s (s.readHalf a).2 := operates_access s
theorem operates_readWord (s : State) (a : Addr) : Operates s (s.readWord a).2 :=
  (operates_access s).trans (operates_access s.access)
theorem operates_readDword (s : State) (a : Addr) : Operates s (s.readDword a).2 :=
  (operates_readWord s a).trans (operates_readWord (s.readWord a).2 (a + 4#20))

theorem operates_readHalves (s : State) (a : Addr) (n : Nat) : Operates s (s.readHalves a n).2 := by
  induction n generalizing s a with
  | zero => exact .refl s
  | succ n ih => exact (operates_access s).trans (ih _ _)

theorem operates_writeByte {s : State} {a : Addr} (v : Byte) (ha : s.available a = true) (hp : s.cpuProtected a = false) :
    Operates s (s.writeByte a v) :=
  (operates_access s).trans (operates_setByte v (by rw [(operates_access s).available, ha])
    (by rw [(operates_access s).cpuProtected, hp]))

theorem operates_writeHalf {s : State} {a : Addr} (v : Half) (hi : s.Installed a 2) (hp : s.Unprotected a 2) :
    Operates s (s.writeHalf a v) :=
  (operates_access s).trans (operates_setHalf v ((operates_access s).installed hi) ((operates_access s).unprotected hp))

/-- The later part of a field. -/
theorem State.Installed.drop {s : State} {a : Addr} {n : Nat} (h : s.Installed a n) (m k : Nat) (hm : m + k ≤ n) :
    s.Installed (a + BitVec.ofNat 20 m) k := fun j hj => by
  rw [BitVec.add_assoc, ← BitVec.ofNat_add]; exact h (m + j) (by omega)

theorem State.Unprotected.drop {s : State} {a : Addr} {n : Nat} (h : s.Unprotected a n) (m k : Nat) (hm : m + k ≤ n) :
    s.Unprotected (a + BitVec.ofNat 20 m) k := fun j hj => by
  rw [BitVec.add_assoc, ← BitVec.ofNat_add]; exact h (m + j) (by omega)

theorem operates_writeWord {s : State} {a : Addr} (v : Word) (hi : s.Installed a 4) (hp : s.Unprotected a 4) :
    Operates s (s.writeWord a v) := by
  have h := operates_writeHalf (slice v 0 16) (fun k hk => hi k (by omega)) fun k hk => hp k (by omega)
  exact h.trans (operates_writeHalf _ (h.installed (hi.drop 2 2 (by omega))) (h.unprotected (hp.drop 2 2 (by omega))))

theorem operates_writeDword {s : State} {a : Addr} (v : Dword) (hi : s.Installed a 8) (hp : s.Unprotected a 8) :
    Operates s (s.writeDword a v) := by
  have h := operates_writeWord (slice v 0 32) (fun k hk => hi k (by omega)) fun k hk => hp k (by omega)
  exact h.trans (operates_writeWord _ (h.installed (hi.drop 4 4 (by omega))) (h.unprotected (hp.drop 4 4 (by omega))))

/-- The first byte of a writable field. -/
theorem writable_first {s : State} {a : Addr} {n align : Nat} (h : s.Writable a n align) (hn : 0 < n) :
    s.available a = true ∧ s.cpuProtected a = false :=
  ⟨by simpa [State.available] using h.1.1 0 hn, by simpa using h.2 0 hn⟩

/-! ## What a terminated instruction leaves -/

theorem operates_spoilReg (r : Reg) (s : State) : Operates s (spoilReg r s) := .plain rfl
theorem operates_spoilLo (r : Reg) (s : State) : Operates s (spoilLo r s) := .plain rfl
theorem operates_spoilChar (r : Reg) (s : State) : Operates s (spoilChar r s) := .plain rfl
theorem operates_spoilPair (r : Reg) (s : State) : Operates s (spoilPair r s) := .plain rfl
theorem operates_spoilCc (s : State) : Operates s (spoilCc s) := .plain rfl

theorem operates_spoilRegs (r : Reg) (n : Nat) (s : State) : Operates s (spoilRegs r n s) := by
  induction n generalizing r s with
  | zero => exact .refl s
  | succ n ih => exact (operates_spoilReg r s).trans (ih _ _)

theorem operates_spoilFp (r : Reg) (s : State) : Operates s (spoilFp r s) := by
  unfold spoilFp
  split
  · exact (operates_setFp s r _).trans (operates_draw _)
  · exact .refl s

theorem operates_spoilByte (a : Addr) (s : State) : Operates s (spoilByte a s) := by
  unfold spoilByte
  split
  · rename_i h
    simp only [Bool.and_eq_true, Bool.not_eq_true'] at h
    exact (operates_setByte _ h.1 h.2).trans (operates_draw _)
  · exact .refl s

theorem operates_spoilBytes (a : Addr) (n : Nat) (s : State) : Operates s (spoilBytes a n s) := by
  induction n generalizing a s with
  | zero => exact .refl s
  | succ n ih => exact (operates_spoilByte a s).trans (ih _ _)

theorem operates_spoilRegCc (r : Reg) (s : State) : Operates s (spoilRegCc r s) := .plain rfl
theorem operates_spoilLoCc (r : Reg) (s : State) : Operates s (spoilLoCc r s) := .plain rfl
theorem operates_spoilPairCc (r : Reg) (s : State) : Operates s (spoilPairCc r s) := .plain rfl
theorem operates_spoilFpCc (r : Reg) (s : State) : Operates s (spoilFpCc r s) :=
  (operates_spoilFp r s).trans (operates_spoilCc _)

/-! ## Operands processed byte by byte -/

/-- Whatever a part of an instruction ends in, operations lead there; `g` is the state in its answer. -/
def Stage.Operates {α : Type} (s : State) (g : α → State) (x : Stage α) : Prop :=
  match x with
  | .ok a => Machine.Operates s (g a)
  | .error e => Machine.Operates s e.2

/-- One part after another. -/
theorem Stage.Operates.bind {α β : Type} {s : State} {g : α → State} {k : β → State} {x : Stage α} {f : α → Stage β}
    (h : Stage.Operates s g x) (hf : ∀ a, x = .ok a → Stage.Operates (g a) k (f a)) :
    Stage.Operates s k (x >>= f) := by
  cases x with
  | error e => exact h
  | ok a =>
    have hf := hf a rfl
    show Stage.Operates s k (f a)
    unfold Stage.Operates at *
    cases e : f a with
    | ok b => rw [e] at hf; exact h.trans hf
    | error b => rw [e] at hf; exact h.trans hf

theorem operates_fetchByte (s : State) (a : Addr) : Stage.Operates s (·.2) (s.fetchByte a) := by
  unfold State.fetchByte
  split
  · exact operates_readByte s a
  · exact .refl s

theorem operates_storeByte (s : State) (a : Addr) (v : Byte) : Stage.Operates s id (s.storeByte a v) := by
  unfold State.storeByte
  split
  · exact .refl s
  · split
    · exact .refl s
    · exact operates_writeByte v (by simp_all) (by simp_all)

theorem operates_fetchDigit (s : State) (p : Addr) (n j : Nat) : Stage.Operates s (·.2) (s.fetchDigit p n j) := by
  unfold State.fetchDigit
  split
  · exact operates_fetchByte s _
  · exact .refl s

theorem operates_combineBytes (f : Byte → Byte → Byte) (a1 a2 : Addr) (n : Nat) (z : Bool) (s : State) :
    Stage.Operates s (·.2) (combineBytes f a1 a2 n z s) := by
  induction n generalizing a1 a2 z s with
  | zero => exact .refl s
  | succ n ih =>
    exact (operates_fetchByte s a2).bind fun x _ => (operates_fetchByte x.2 a1).bind fun y _ =>
      (operates_storeByte y.2 a1 _).bind fun t _ => ih _ _ _ t

theorem operates_translateBytes (a1 a2 : Addr) (n : Nat) (s : State) :
    Stage.Operates s id (translateBytes a1 a2 n s) := by
  induction n generalizing a1 s with
  | zero => exact .refl s
  | succ n ih =>
    exact (operates_fetchByte s a1).bind fun x _ => (operates_fetchByte x.2 _).bind fun y _ =>
      (operates_storeByte y.2 a1 _).bind fun t _ => ih _ t

theorem operates_compareBytes (a1 a2 : Addr) (n : Nat) (s : State) :
    Stage.Operates s (·.2) (compareBytes a1 a2 n s) := by
  induction n generalizing a1 a2 s with
  | zero => exact .refl s
  | succ n ih =>
    refine (operates_fetchByte s a2).bind fun x _ => (operates_fetchByte x.2 a1).bind fun y _ => ?_
    split
    · exact ih _ _ y.2
    · exact .refl y.2

theorem operates_scanBytes (a1 a2 : Addr) (n : Nat) (s : State) : Stage.Operates s (·.2) (scanBytes a1 a2 n s) := by
  induction n generalizing a1 s with
  | zero => exact .refl s
  | succ n ih =>
    refine (operates_fetchByte s a1).bind fun x _ => (operates_fetchByte x.2 _).bind fun y _ => ?_
    split
    · exact ih _ y.2
    · exact .refl y.2

theorem operates_packBytes (p1 p2 : Addr) (n2 k i : Nat) (s : State) :
    Stage.Operates s id (packBytes p1 p2 n2 k i s) := by
  induction k generalizing i s with
  | zero => exact .refl s
  | succ k ih =>
    exact (operates_fetchDigit s p2 n2 _).bind fun x _ => (operates_fetchDigit x.2 p2 n2 _).bind fun y _ =>
      (operates_storeByte y.2 _ _).bind fun t _ => ih _ t

theorem operates_unpackBytes (zone : BitVec 4) (p1 p2 : Addr) (n2 k i j : Nat) (s : State) :
    Stage.Operates s id (unpackBytes zone p1 p2 n2 k i j s) := by
  induction k using Nat.strongRecOn generalizing i j s with
  | ind k ih =>
    match k with
    | 0 => exact .refl s
    | 1 => exact (operates_fetchDigit s p2 n2 j).bind fun x _ => operates_storeByte x.2 _ _
    | k + 2 =>
      exact (operates_fetchDigit s p2 n2 j).bind fun x _ => (operates_storeByte x.2 _ _).bind fun t _ =>
        (operates_storeByte t _ _).bind fun u _ => ih k (by omega) _ _ u

theorem operates_offsetBytes (p1 p2 : Addr) (n2 k i : Nat) (prev : Byte) (s : State) :
    Stage.Operates s id (offsetBytes p1 p2 n2 k i prev s) := by
  induction k generalizing i prev s with
  | zero => exact .refl s
  | succ k ih =>
    exact (operates_fetchDigit s p2 n2 _).bind fun x _ => (operates_storeByte x.2 _ _).bind fun t _ => ih _ _ t

/-! ## How a meaning ends -/

/-- The answer of a meaning: a next state that operations lead to, or a program interruption taken after them, or a stop. -/
def Ends (s : State) (r : Result) : Prop :=
  (∃ t, Operates s t ∧ r = .next t) ∨ (∃ e t, Operates s t ∧ r = raise e t) ∨ ∀ t, r ≠ .next t

theorem ends_next {s t : State} (h : Operates s t) : Ends s (.next t) := .inl ⟨t, h, rfl⟩
theorem ends_raise {s t : State} (e : ProgEx) (h : Operates s t) : Ends s (raise e t) := .inr (.inl ⟨e, t, h, rfl⟩)
theorem ends_refused (s : State) (r : Refusal) : Ends s (.refused r) := .inr (.inr fun t h => by cases h)

theorem ends_after {s t : State} {r : Result} (h : Operates s t) (k : Ends t r) : Ends s r := by
  rcases k with ⟨u, hu, e⟩ | ⟨x, u, hu, e⟩ | k
  · exact .inl ⟨u, h.trans hu, e⟩
  · exact .inr (.inl ⟨x, u, h.trans hu, e⟩)
  · exact .inr (.inr k)

theorem ends_afterLoad {s : State} {a : Addr} {n align : Nat} {spoil : State → State} {k : Result}
    (hs : Operates s (spoil s)) (hk : Ends s k) : Ends s (afterLoad s a n align spoil k) := by
  unfold afterLoad
  split
  · exact hk
  · exact ends_raise _ hs
  · exact ends_raise _ (.refl s)

/-- A byte, halfword, word or double word that is read. -/
theorem ends_withByte {s : State} {a : Addr} {spoil : State → State} {k : Byte → State → Result}
    (hs : Operates s (spoil s)) (hk : ∀ v t, Ends t (k v t)) : Ends s (withByte s a spoil k) :=
  ends_afterLoad hs (ends_after (operates_readByte s a) (hk _ _))

theorem ends_withHalf {s : State} {a : Addr} {spoil : State → State} {k : Half → State → Result}
    (hs : Operates s (spoil s)) (hk : ∀ v t, Ends t (k v t)) : Ends s (withHalf s a spoil k) :=
  ends_afterLoad hs (ends_after (operates_readHalf s a) (hk _ _))

theorem ends_withWord {s : State} {a : Addr} {spoil : State → State} {k : Word → State → Result}
    (hs : Operates s (spoil s)) (hk : ∀ v t, Ends t (k v t)) : Ends s (withWord s a spoil k) :=
  ends_afterLoad hs (ends_after (operates_readWord s a) (hk _ _))

theorem ends_withDword {s : State} {a : Addr} {align : Nat} {spoil : State → State} {k : Dword → State → Result}
    (hs : Operates s (spoil s)) (hk : ∀ v t, Ends t (k v t)) : Ends s (withDword s a align spoil k) :=
  ends_afterLoad hs (ends_after (operates_readDword s a) (hk _ _))

/-- A store whose checks pass is into installed and unprotected storage. -/
theorem ends_afterStoreCheck {s : State} {a : Addr} {n align : Nat} {k : Result}
    (hk : s.Writable a n align → Ends s k) : Ends s (afterStoreCheck s a n align k) := by
  unfold afterStoreCheck
  split
  · rename_i h
    exact hk ((State.storeError_none s a n align).mp h)
  · exact ends_raise _ (.refl s)

theorem ends_needEven {s : State} {r : Reg} {k : Result} (hk : Ends s k) : Ends s (needEven s r k) := by
  unfold needEven
  split
  · exact hk
  · exact ends_raise _ (.refl s)

theorem ends_needFp {s : State} {r : Reg} {k : Result} (hk : Ends s k) : Ends s (needFp s r k) := by
  unfold needFp
  split
  · exact hk
  · exact ends_raise _ (.refl s)

theorem ends_finishArith {w : Nat} (r : BitVec w × Bool) {s t : State} (h : Operates s t) :
    Ends s (finishArith r t) := by
  unfold finishArith
  dsimp only
  split
  · exact ends_raise _ (h.trans (operates_setCc t _))
  · exact ends_next (h.trans (operates_setCc t _))

theorem ends_storedField {s : State} {a : Addr} {n : Nat} {x : Stage State} (h : Stage.Operates s id x) :
    Ends s (storedField a n x) := by
  cases x with
  | ok t => exact ends_next h
  | error e => exact ends_raise _ (Operates.trans h (operates_spoilBytes a n _))

theorem ends_storedFieldCc {s : State} {a : Addr} {n : Nat} {x : Stage (Bool × State)}
    (h : Stage.Operates s (·.2) x) : Ends s (storedFieldCc a n x) := by
  cases x with
  | ok t => exact ends_next (Operates.trans h (operates_setCc _ _))
  | error e => exact ends_raise _ (Operates.trans h ((operates_spoilBytes a n _).trans (operates_spoilCc _)))

theorem ends_movedField {s : State} {a : Addr} {n : Nat} {x : Stage (Bool × State)} (h : Stage.Operates s (·.2) x) :
    Ends s (movedField a n x) := by
  refine ends_storedField ?_
  cases x with
  | ok t => exact h
  | error e => exact h

theorem ends_complete (e : Option ProgEx) {s t : State} (h : Operates s t) : Ends s (complete e t) := by
  cases e with
  | none => exact ends_next h
  | some e => exact ends_raise e h

theorem ends_fpFinish (r1 : Reg) (p : FpParts) (s : State) : Ends s (fpFinish r1 p s) :=
  ends_complete _ (operates_setFp s r1 _)

theorem ends_fpAdd (normalize : Bool) (r1 : Reg) (a b : Word) (s : State) : Ends s (fpAdd normalize r1 a b s) := by
  unfold fpAdd
  split
  · exact ends_complete _ ((operates_setFp s r1 _).trans (operates_setCc _ _))
  · exact ends_complete _ ((operates_setFp s r1 _).trans (operates_setCc _ _))

theorem ends_fpMultiply (r1 : Reg) (a b : Word) (s : State) : Ends s (fpMultiply r1 a b s) := by
  unfold fpMultiply
  dsimp only
  split
  · exact ends_next (operates_setFp s r1 _)
  · exact ends_fpFinish r1 _ s

theorem ends_fpDivide (r1 : Reg) (a b : Word) (s : State) : Ends s (fpDivide r1 a b s) := by
  unfold fpDivide
  dsimp only
  split
  · exact ends_raise _ (.refl s)
  · split
    · exact ends_next (operates_setFp s r1 _)
    · split
      · exact ends_fpFinish r1 _ s
      · exact ends_fpFinish r1 _ s

theorem ends_fpHalve (r1 : Reg) (b : Word) (s : State) : Ends s (fpHalve r1 b s) := by
  unfold fpHalve
  dsimp only
  split
  · exact ends_next (operates_setFp s r1 _)
  · exact ends_fpFinish r1 _ s

theorem operates_branchIf (s : State) (c : Bool) (t : Addr) : Operates s (s.branchIf c t) := by
  unfold State.branchIf
  split
  · exact operates_setIa s t
  · exact .refl s

end Sys2Proof.Machine
end

