-- ==== Sys2Proof/Laws/Meanings.lean ====
section
/-! SUPPORT.
How each instruction ends, one lemma per meaning: in a next state that operations lead to, in a program interruption
taken after them, or in a stop. Left out are the instructions that change more: LPSW, SSM, SVC, SSK, SIO, TMRS and EX.
-/
namespace Sys2Proof.Machine

theorem ends_dividePair (r1 : Reg) (v : Word) (s : State) : Ends s (dividePair r1 v s) := by
  refine ends_needEven ?_
  dsimp only
  split
  · exact ends_raise _ (.refl s)
  · split
    · exact ends_raise _ (.refl s)
    · exact ends_next (.plain rfl)

theorem ends_divideShort (r1 : Reg) (d : Half) (s : State) : Ends s (divideShort r1 d s) := by
  unfold divideShort
  dsimp only
  split
  · exact ends_raise _ (.refl s)
  · split
    · exact ends_raise _ (.refl s)
    · exact ends_next (operates_setReg s r1 _)

theorem operates_loadRegs (r : Reg) (a : Addr) (n : Nat) (s : State) : Operates s (loadRegs r a n s) := by
  induction n generalizing r a s with
  | zero => exact .refl s
  | succ n ih => exact ((operates_readWord s a).trans (operates_setReg _ r _)).trans (ih _ _ _)

/-- What stores of words meet depends on the installation and the keys alone. -/
theorem storeWordsError_operates {s t : State} (h : Operates s t) (a : Addr) (n : Nat) :
    t.storeWordsError a n = s.storeWordsError a n := by
  induction n generalizing a with
  | zero => rfl
  | succ n ih =>
    unfold State.storeWordsError
    rw [ih, State.storeError, State.storeError]
    simp only [State.availableN, State.cpuProtectedN, h.available, h.cpuProtected]
    rfl

theorem operates_storeRegs {r : Reg} {a : Addr} {n : Nat} {s : State} (h : s.storeWordsError a n = none) :
    Operates s (storeRegs r a n s) := by
  induction n generalizing r a s with
  | zero => exact .refl s
  | succ n ih =>
    unfold State.storeWordsError at h
    split at h
    · cases h
    · rename_i h0
      have w := (State.storeError_none s a 4 4).mp h0
      have o := operates_writeWord (s.reg r) w.1.1 w.2
      exact o.trans (ih (by rw [storeWordsError_operates o]; exact h))

theorem ends_connectByte (f : Byte → Byte → Byte) (a : Addr) (i2 : Byte) (s : State) : Ends s (connectByte f a i2 s) := by
  refine ends_afterStoreCheck fun w => ?_
  have w := writable_first w (by decide)
  have o := operates_readByte s a
  exact ends_next ((o.trans (operates_writeByte _ (by rw [o.available, w.1]) (by rw [o.cpuProtected, w.2]))).trans
    (operates_setCc _ _))

theorem ends_execSpm (r1 : Reg) (s : State) : Ends s (execSpm r1 s) :=
  ends_next (.plain rfl)
theorem ends_execBalr (r1 r2 : Reg) (s : State) : Ends s (execBalr r1 r2 s) :=
  ends_next ((operates_setReg _ _ _).trans (operates_branchIf _ _ _))
theorem ends_execBctr (r1 r2 : Reg) (s : State) : Ends s (execBctr r1 r2 s) :=
  ends_next ((operates_setReg _ _ _).trans (operates_branchIf _ _ _))
theorem ends_execBcr (m1 : BitVec 4) (r2 : Reg) (s : State) : Ends s (execBcr m1 r2 s) :=
  ends_next (operates_branchIf _ _ _)
theorem ends_execLfsr (r1 r2 : Reg) (s : State) : Ends s (execLfsr r1 r2 s) :=
  ends_finishArith _ (operates_setLo s r1 _)
theorem ends_execLpr (r1 r2 : Reg) (s : State) : Ends s (execLpr r1 r2 s) :=
  ends_finishArith _ (operates_setReg s r1 _)
theorem ends_execLnr (r1 r2 : Reg) (s : State) : Ends s (execLnr r1 r2 s) :=
  ends_next (.plain rfl)
theorem ends_execLtr (r1 r2 : Reg) (s : State) : Ends s (execLtr r1 r2 s) :=
  ends_next (.plain rfl)
theorem ends_execLcr (r1 r2 : Reg) (s : State) : Ends s (execLcr r1 r2 s) :=
  ends_finishArith _ (operates_setReg s r1 _)
theorem ends_execNr (r1 r2 : Reg) (s : State) : Ends s (execNr r1 r2 s) :=
  ends_next (.plain rfl)
theorem ends_execClr (r1 r2 : Reg) (s : State) : Ends s (execClr r1 r2 s) :=
  ends_next (.plain rfl)
theorem ends_execOr (r1 r2 : Reg) (s : State) : Ends s (execOr r1 r2 s) :=
  ends_next (.plain rfl)
theorem ends_execXr (r1 r2 : Reg) (s : State) : Ends s (execXr r1 r2 s) :=
  ends_next (.plain rfl)
theorem ends_execLr (r1 r2 : Reg) (s : State) : Ends s (execLr r1 r2 s) :=
  ends_next (.plain rfl)
theorem ends_execCr (r1 r2 : Reg) (s : State) : Ends s (execCr r1 r2 s) :=
  ends_next (.plain rfl)
theorem ends_execAr (r1 r2 : Reg) (s : State) : Ends s (execAr r1 r2 s) :=
  ends_finishArith _ (operates_setReg s r1 _)
theorem ends_execSr (r1 r2 : Reg) (s : State) : Ends s (execSr r1 r2 s) :=
  ends_finishArith _ (operates_setReg s r1 _)
theorem ends_execMr (r1 r2 : Reg) (s : State) : Ends s (execMr r1 r2 s) :=
  ends_needEven (ends_next (.plain rfl))
theorem ends_execDr (r1 r2 : Reg) (s : State) : Ends s (execDr r1 r2 s) :=
  ends_dividePair r1 _ s
theorem ends_execAlr (r1 r2 : Reg) (s : State) : Ends s (execAlr r1 r2 s) :=
  ends_next (.plain rfl)
theorem ends_execSlr (r1 r2 : Reg) (s : State) : Ends s (execSlr r1 r2 s) :=
  ends_next (.plain rfl)
theorem ends_execLcdr (r1 r2 : Reg) (s : State) : Ends s (execLcdr r1 r2 s) :=
  ends_needEven (ends_needEven (ends_finishArith _ (operates_setPair s r1 _)))
theorem ends_execLdr (r1 r2 : Reg) (s : State) : Ends s (execLdr r1 r2 s) :=
  ends_needEven (ends_needEven (ends_next (.plain rfl)))
theorem ends_execCdr (r1 r2 : Reg) (s : State) : Ends s (execCdr r1 r2 s) :=
  ends_needEven (ends_needEven (ends_next (.plain rfl)))
theorem ends_execAdr (r1 r2 : Reg) (s : State) : Ends s (execAdr r1 r2 s) :=
  ends_needEven (ends_needEven (ends_finishArith _ (operates_setPair s r1 _)))
theorem ends_execSdr (r1 r2 : Reg) (s : State) : Ends s (execSdr r1 r2 s) :=
  ends_needEven (ends_needEven (ends_finishArith _ (operates_setPair s r1 _)))
theorem ends_execLper (r1 r2 : Reg) (s : State) : Ends s (execLper r1 r2 s) :=
  ends_needFp (ends_needFp (ends_next (.plain rfl)))
theorem ends_execLner (r1 r2 : Reg) (s : State) : Ends s (execLner r1 r2 s) :=
  ends_needFp (ends_needFp (ends_next (.plain rfl)))
theorem ends_execLter (r1 r2 : Reg) (s : State) : Ends s (execLter r1 r2 s) :=
  ends_needFp (ends_needFp (ends_next (.plain rfl)))
theorem ends_execLcer (r1 r2 : Reg) (s : State) : Ends s (execLcer r1 r2 s) :=
  ends_needFp (ends_needFp (ends_next (.plain rfl)))
theorem ends_execHer (r1 r2 : Reg) (s : State) : Ends s (execHer r1 r2 s) :=
  ends_needFp (ends_needFp (ends_fpHalve _ _ _))
theorem ends_execLer (r1 r2 : Reg) (s : State) : Ends s (execLer r1 r2 s) :=
  ends_needFp (ends_needFp (ends_next (.plain rfl)))
theorem ends_execCer (r1 r2 : Reg) (s : State) : Ends s (execCer r1 r2 s) :=
  ends_needFp (ends_needFp (ends_next (.plain rfl)))
theorem ends_execAer (r1 r2 : Reg) (s : State) : Ends s (execAer r1 r2 s) :=
  ends_needFp (ends_needFp (ends_fpAdd _ _ _ _ _))
theorem ends_execSer (r1 r2 : Reg) (s : State) : Ends s (execSer r1 r2 s) :=
  ends_needFp (ends_needFp (ends_fpAdd _ _ _ _ _))
theorem ends_execMer (r1 r2 : Reg) (s : State) : Ends s (execMer r1 r2 s) :=
  ends_needFp (ends_needFp (ends_fpMultiply _ _ _ _))
theorem ends_execDer (r1 r2 : Reg) (s : State) : Ends s (execDer r1 r2 s) :=
  ends_needFp (ends_needFp (ends_fpDivide _ _ _ _))
theorem ends_execAur (r1 r2 : Reg) (s : State) : Ends s (execAur r1 r2 s) :=
  ends_needFp (ends_needFp (ends_fpAdd _ _ _ _ _))
theorem ends_execSur (r1 r2 : Reg) (s : State) : Ends s (execSur r1 r2 s) :=
  ends_needFp (ends_needFp (ends_fpAdd _ _ _ _ _))
theorem ends_execSth (r1 x2 b2 : Reg) (d2 : Disp) (s : State) : Ends s (execSth r1 x2 b2 d2 s) :=
  ends_afterStoreCheck fun w => ends_next (operates_writeHalf _ w.1.1 w.2)
theorem ends_execLa (r1 x2 b2 : Reg) (d2 : Disp) (s : State) : Ends s (execLa r1 x2 b2 d2 s) :=
  ends_next (.plain rfl)
theorem ends_execStc (r1 x2 b2 : Reg) (d2 : Disp) (s : State) : Ends s (execStc r1 x2 b2 d2 s) :=
  ends_afterStoreCheck fun w => ends_next (operates_writeByte _ (writable_first w (by decide)).1 (writable_first w (by decide)).2)
theorem ends_execIc (r1 x2 b2 : Reg) (d2 : Disp) (s : State) : Ends s (execIc r1 x2 b2 d2 s) :=
  ends_withByte (operates_spoilChar _ _) fun _ _ => ends_next (.plain rfl)
theorem ends_execBal (r1 x2 b2 : Reg) (d2 : Disp) (s : State) : Ends s (execBal r1 x2 b2 d2 s) :=
  ends_next (.plain rfl)
theorem ends_execBct (r1 x2 b2 : Reg) (d2 : Disp) (s : State) : Ends s (execBct r1 x2 b2 d2 s) :=
  ends_next ((operates_setReg _ _ _).trans (operates_branchIf _ _ _))
theorem ends_execBc (m1 : BitVec 4) (x2 b2 : Reg) (d2 : Disp) (s : State) : Ends s (execBc m1 x2 b2 d2 s) :=
  ends_next (operates_branchIf _ _ _)
theorem ends_execLh (r1 x2 b2 : Reg) (d2 : Disp) (s : State) : Ends s (execLh r1 x2 b2 d2 s) :=
  ends_withHalf (operates_spoilReg _ _) fun _ _ => ends_next (.plain rfl)
theorem ends_execCh (r1 x2 b2 : Reg) (d2 : Disp) (s : State) : Ends s (execCh r1 x2 b2 d2 s) :=
  ends_withHalf (operates_spoilCc _) fun _ _ => ends_next (.plain rfl)
theorem ends_execAh (r1 x2 b2 : Reg) (d2 : Disp) (s : State) : Ends s (execAh r1 x2 b2 d2 s) :=
  ends_withHalf (operates_spoilRegCc _ _) fun _ s => ends_finishArith _ (operates_setReg s r1 _)
theorem ends_execSh (r1 x2 b2 : Reg) (d2 : Disp) (s : State) : Ends s (execSh r1 x2 b2 d2 s) :=
  ends_withHalf (operates_spoilRegCc _ _) fun _ s => ends_finishArith _ (operates_setReg s r1 _)
theorem ends_execMh (r1 x2 b2 : Reg) (d2 : Disp) (s : State) : Ends s (execMh r1 x2 b2 d2 s) :=
  ends_withHalf (operates_spoilReg _ _) fun _ _ => ends_next (.plain rfl)
theorem ends_execDs (r1 x2 b2 : Reg) (d2 : Disp) (s : State) : Ends s (execDs r1 x2 b2 d2 s) :=
  ends_withHalf (operates_spoilReg _ _) fun _ s => ends_divideShort r1 _ s
theorem ends_execCvd (r1 x2 b2 : Reg) (d2 : Disp) (s : State) : Ends s (execCvd r1 x2 b2 d2 s) :=
  ends_afterStoreCheck fun w => ends_next (operates_writeDword _ w.1.1 w.2)
theorem ends_execCvb (r1 x2 b2 : Reg) (d2 : Disp) (s : State) : Ends s (execCvb r1 x2 b2 d2 s) :=
  ends_withDword (operates_spoilReg _ _) fun v s => by
    dsimp only
    split
    · exact ends_raise _ (.refl s)
    · split
      · exact ends_next (operates_setReg s r1 _)
      · exact ends_raise _ (operates_setReg s r1 _)
theorem ends_execSt (r1 x2 b2 : Reg) (d2 : Disp) (s : State) : Ends s (execSt r1 x2 b2 d2 s) :=
  ends_afterStoreCheck fun w => ends_next (operates_writeWord _ w.1.1 w.2)
theorem ends_execLas (r1 x2 b2 : Reg) (d2 : Disp) (s : State) : Ends s (execLas r1 x2 b2 d2 s) :=
  ends_next (.plain rfl)
theorem ends_execLts (r1 x2 b2 : Reg) (d2 : Disp) (s : State) : Ends s (execLts r1 x2 b2 d2 s) :=
  ends_withHalf (operates_spoilLoCc _ _) fun _ _ => ends_next (.plain rfl)
theorem ends_execAs (r1 x2 b2 : Reg) (d2 : Disp) (s : State) : Ends s (execAs r1 x2 b2 d2 s) :=
  ends_withHalf (operates_spoilLoCc _ _) fun _ s => ends_finishArith _ (operates_setLo s r1 _)
theorem ends_execN (r1 x2 b2 : Reg) (d2 : Disp) (s : State) : Ends s (execN r1 x2 b2 d2 s) :=
  ends_withWord (operates_spoilRegCc _ _) fun _ _ => ends_next (.plain rfl)
theorem ends_execCl (r1 x2 b2 : Reg) (d2 : Disp) (s : State) : Ends s (execCl r1 x2 b2 d2 s) :=
  ends_withWord (operates_spoilCc _) fun _ _ => ends_next (.plain rfl)
theorem ends_execO (r1 x2 b2 : Reg) (d2 : Disp) (s : State) : Ends s (execO r1 x2 b2 d2 s) :=
  ends_withWord (operates_spoilRegCc _ _) fun _ _ => ends_next (.plain rfl)
theorem ends_execX (r1 x2 b2 : Reg) (d2 : Disp) (s : State) : Ends s (execX r1 x2 b2 d2 s) :=
  ends_withWord (operates_spoilRegCc _ _) fun _ _ => ends_next (.plain rfl)
theorem ends_execL (r1 x2 b2 : Reg) (d2 : Disp) (s : State) : Ends s (execL r1 x2 b2 d2 s) :=
  ends_withWord (operates_spoilReg _ _) fun _ _ => ends_next (.plain rfl)
theorem ends_execC (r1 x2 b2 : Reg) (d2 : Disp) (s : State) : Ends s (execC r1 x2 b2 d2 s) :=
  ends_withWord (operates_spoilCc _) fun _ _ => ends_next (.plain rfl)
theorem ends_execA (r1 x2 b2 : Reg) (d2 : Disp) (s : State) : Ends s (execA r1 x2 b2 d2 s) :=
  ends_withWord (operates_spoilRegCc _ _) fun _ s => ends_finishArith _ (operates_setReg s r1 _)
theorem ends_execS (r1 x2 b2 : Reg) (d2 : Disp) (s : State) : Ends s (execS r1 x2 b2 d2 s) :=
  ends_withWord (operates_spoilRegCc _ _) fun _ s => ends_finishArith _ (operates_setReg s r1 _)
theorem ends_execM (r1 x2 b2 : Reg) (d2 : Disp) (s : State) : Ends s (execM r1 x2 b2 d2 s) :=
  ends_withWord (operates_spoilPair _ _) fun _ _ => ends_needEven (ends_next (.plain rfl))
theorem ends_execD (r1 x2 b2 : Reg) (d2 : Disp) (s : State) : Ends s (execD r1 x2 b2 d2 s) :=
  ends_withWord (operates_spoilPair _ _) fun _ s => ends_dividePair r1 _ s
theorem ends_execAl (r1 x2 b2 : Reg) (d2 : Disp) (s : State) : Ends s (execAl r1 x2 b2 d2 s) :=
  ends_withWord (operates_spoilRegCc _ _) fun _ _ => ends_next (.plain rfl)
theorem ends_execSl (r1 x2 b2 : Reg) (d2 : Disp) (s : State) : Ends s (execSl r1 x2 b2 d2 s) :=
  ends_withWord (operates_spoilRegCc _ _) fun _ _ => ends_next (.plain rfl)
theorem ends_execStd (r1 x2 b2 : Reg) (d2 : Disp) (s : State) : Ends s (execStd r1 x2 b2 d2 s) :=
  ends_afterStoreCheck fun w => ends_needEven (ends_next (operates_writeDword _ w.1.1 w.2))
theorem ends_execCs (r1 x2 b2 : Reg) (d2 : Disp) (s : State) : Ends s (execCs r1 x2 b2 d2 s) :=
  ends_withHalf (operates_spoilCc _) fun _ _ => ends_next (.plain rfl)
theorem ends_execLt (r1 x2 b2 : Reg) (d2 : Disp) (s : State) : Ends s (execLt r1 x2 b2 d2 s) :=
  ends_withWord (operates_spoilRegCc _ _) fun _ _ => ends_next (.plain rfl)
theorem ends_execXs (r1 x2 b2 : Reg) (d2 : Disp) (s : State) : Ends s (execXs r1 x2 b2 d2 s) :=
  ends_withHalf (operates_spoilLoCc _ _) fun _ _ => ends_next (.plain rfl)
theorem ends_execNs (r1 x2 b2 : Reg) (d2 : Disp) (s : State) : Ends s (execNs r1 x2 b2 d2 s) :=
  ends_withHalf (operates_spoilLoCc _ _) fun _ _ => ends_next (.plain rfl)
theorem ends_execCls (r1 x2 b2 : Reg) (d2 : Disp) (s : State) : Ends s (execCls r1 x2 b2 d2 s) :=
  ends_withHalf (operates_spoilCc _) fun _ _ => ends_next (.plain rfl)
theorem ends_execOs (r1 x2 b2 : Reg) (d2 : Disp) (s : State) : Ends s (execOs r1 x2 b2 d2 s) :=
  ends_withHalf (operates_spoilLoCc _ _) fun _ _ => ends_next (.plain rfl)
theorem ends_execLd (r1 x2 b2 : Reg) (d2 : Disp) (s : State) : Ends s (execLd r1 x2 b2 d2 s) :=
  ends_withDword (operates_spoilPair _ _) fun _ _ => ends_needEven (ends_next (.plain rfl))
theorem ends_execCd (r1 x2 b2 : Reg) (d2 : Disp) (s : State) : Ends s (execCd r1 x2 b2 d2 s) :=
  ends_withDword (operates_spoilCc _) fun _ _ => ends_needEven (ends_next (.plain rfl))
theorem ends_execAd (r1 x2 b2 : Reg) (d2 : Disp) (s : State) : Ends s (execAd r1 x2 b2 d2 s) :=
  ends_withDword (operates_spoilPairCc _ _) fun _ s => ends_needEven (ends_finishArith _ (operates_setPair s r1 _))
theorem ends_execSd (r1 x2 b2 : Reg) (d2 : Disp) (s : State) : Ends s (execSd r1 x2 b2 d2 s) :=
  ends_withDword (operates_spoilPairCc _ _) fun _ s => ends_needEven (ends_finishArith _ (operates_setPair s r1 _))
theorem ends_execSte (r1 x2 b2 : Reg) (d2 : Disp) (s : State) : Ends s (execSte r1 x2 b2 d2 s) :=
  ends_afterStoreCheck fun w => ends_needFp (ends_next (operates_writeWord _ w.1.1 w.2))
theorem ends_execMs (r1 x2 b2 : Reg) (d2 : Disp) (s : State) : Ends s (execMs r1 x2 b2 d2 s) :=
  ends_withHalf (operates_spoilReg _ _) fun _ _ => ends_next (.plain rfl)
theorem ends_execSs (r1 x2 b2 : Reg) (d2 : Disp) (s : State) : Ends s (execSs r1 x2 b2 d2 s) :=
  ends_withHalf (operates_spoilLoCc _ _) fun _ s => ends_finishArith _ (operates_setLo s r1 _)
theorem ends_execBu (x2 b2 : Reg) (d2 : Disp) (s : State) : Ends s (execBu x2 b2 d2 s) :=
  ends_next (.plain rfl)
theorem ends_execLs (r1 x2 b2 : Reg) (d2 : Disp) (s : State) : Ends s (execLs r1 x2 b2 d2 s) :=
  ends_withHalf (operates_spoilLo _ _) fun _ _ => ends_next (.plain rfl)
theorem ends_execTb (r1 x2 b2 : Reg) (d2 : Disp) (s : State) : Ends s (execTb r1 x2 b2 d2 s) :=
  ends_withHalf (operates_spoilCc _) fun _ _ => ends_next (.plain rfl)
theorem ends_execLe (r1 x2 b2 : Reg) (d2 : Disp) (s : State) : Ends s (execLe r1 x2 b2 d2 s) :=
  ends_withWord (operates_spoilFp _ _) fun _ _ => ends_needFp (ends_next (.plain rfl))
theorem ends_execCe (r1 x2 b2 : Reg) (d2 : Disp) (s : State) : Ends s (execCe r1 x2 b2 d2 s) :=
  ends_withWord (operates_spoilCc _) fun _ _ => ends_needFp (ends_next (.plain rfl))
theorem ends_execAe (r1 x2 b2 : Reg) (d2 : Disp) (s : State) : Ends s (execAe r1 x2 b2 d2 s) :=
  ends_withWord (operates_spoilFpCc _ _) fun _ _ => ends_needFp (ends_fpAdd _ _ _ _ _)
theorem ends_execSe (r1 x2 b2 : Reg) (d2 : Disp) (s : State) : Ends s (execSe r1 x2 b2 d2 s) :=
  ends_withWord (operates_spoilFpCc _ _) fun _ _ => ends_needFp (ends_fpAdd _ _ _ _ _)
theorem ends_execMe (r1 x2 b2 : Reg) (d2 : Disp) (s : State) : Ends s (execMe r1 x2 b2 d2 s) :=
  ends_withWord (operates_spoilFp _ _) fun _ _ => ends_needFp (ends_fpMultiply _ _ _ _)
theorem ends_execDe (r1 x2 b2 : Reg) (d2 : Disp) (s : State) : Ends s (execDe r1 x2 b2 d2 s) :=
  ends_withWord (operates_spoilFp _ _) fun _ _ => ends_needFp (ends_fpDivide _ _ _ _)
theorem ends_execAu (r1 x2 b2 : Reg) (d2 : Disp) (s : State) : Ends s (execAu r1 x2 b2 d2 s) :=
  ends_withWord (operates_spoilFpCc _ _) fun _ _ => ends_needFp (ends_fpAdd _ _ _ _ _)
theorem ends_execSu (r1 x2 b2 : Reg) (d2 : Disp) (s : State) : Ends s (execSu r1 x2 b2 d2 s) :=
  ends_withWord (operates_spoilFpCc _ _) fun _ _ => ends_needFp (ends_fpAdd _ _ _ _ _)
theorem ends_execDiagnose (i2 : Byte) (b1 : Reg) (d1 : Disp) (s : State) : Ends s (execDiagnose i2 b1 d1 s) := by
  unfold execDiagnose needSupervisor
  split
  · exact ends_raise _ (.refl s)
  · exact ends_refused s _
theorem ends_execBxh (r1 r3 b2 : Reg) (d2 : Disp) (s : State) : Ends s (execBxh r1 r3 b2 d2 s) :=
  ends_next ((operates_setReg _ _ _).trans (operates_branchIf _ _ _))
theorem ends_execBxle (r1 r3 b2 : Reg) (d2 : Disp) (s : State) : Ends s (execBxle r1 r3 b2 d2 s) :=
  ends_next ((operates_setReg _ _ _).trans (operates_branchIf _ _ _))
theorem ends_execSrl (r1 b2 : Reg) (d2 : Disp) (s : State) : Ends s (execSrl r1 b2 d2 s) :=
  ends_next (.plain rfl)
theorem ends_execSll (r1 b2 : Reg) (d2 : Disp) (s : State) : Ends s (execSll r1 b2 d2 s) :=
  ends_next (.plain rfl)
theorem ends_execSra (r1 b2 : Reg) (d2 : Disp) (s : State) : Ends s (execSra r1 b2 d2 s) :=
  ends_next (.plain rfl)
theorem ends_execSla (r1 b2 : Reg) (d2 : Disp) (s : State) : Ends s (execSla r1 b2 d2 s) :=
  ends_finishArith _ (operates_setReg s r1 _)
theorem ends_execSrdl (r1 b2 : Reg) (d2 : Disp) (s : State) : Ends s (execSrdl r1 b2 d2 s) :=
  ends_needEven (ends_next (.plain rfl))
theorem ends_execSldl (r1 b2 : Reg) (d2 : Disp) (s : State) : Ends s (execSldl r1 b2 d2 s) :=
  ends_needEven (ends_next (.plain rfl))
theorem ends_execSrda (r1 b2 : Reg) (d2 : Disp) (s : State) : Ends s (execSrda r1 b2 d2 s) :=
  ends_needEven (ends_next (.plain rfl))
theorem ends_execSlda (r1 b2 : Reg) (d2 : Disp) (s : State) : Ends s (execSlda r1 b2 d2 s) :=
  ends_needEven (ends_finishArith _ (operates_setPair s r1 _))
theorem ends_execStm (r1 r3 b2 : Reg) (d2 : Disp) (s : State) : Ends s (execStm r1 r3 b2 d2 s) := by
  unfold execStm
  dsimp only
  split
  · rename_i h
    exact ends_next (operates_storeRegs h)
  · exact ends_raise _ (.refl s)
  · exact ends_raise _ (operates_spoilBytes _ _ s)
theorem ends_execTm (i2 : Byte) (b1 : Reg) (d1 : Disp) (s : State) : Ends s (execTm i2 b1 d1 s) :=
  ends_withByte (operates_spoilCc _) fun _ _ => ends_next (.plain rfl)
theorem ends_execMvi (i2 : Byte) (b1 : Reg) (d1 : Disp) (s : State) : Ends s (execMvi i2 b1 d1 s) :=
  ends_afterStoreCheck fun w => ends_next (operates_writeByte _ (writable_first w (by decide)).1 (writable_first w (by decide)).2)
theorem ends_execTs (b1 : Reg) (d1 : Disp) (s : State) : Ends s (execTs b1 d1 s) := by
  unfold execTs
  dsimp only
  split
  · rename_i h
    have w := writable_first ((State.storeError_none s _ 1 1).mp h) (by decide)
    have o := operates_readByte s (s.ea b1 d1)
    exact ends_next ((o.trans (operates_setByte _ (by rw [o.available, w.1]) (by rw [o.cpuProtected, w.2]))).trans
      (operates_setCc _ _))
  · exact ends_raise _ (operates_spoilCc s)
theorem ends_execNi (i2 : Byte) (b1 : Reg) (d1 : Disp) (s : State) : Ends s (execNi i2 b1 d1 s) :=
  ends_connectByte _ _ _ s
theorem ends_execCli (i2 : Byte) (b1 : Reg) (d1 : Disp) (s : State) : Ends s (execCli i2 b1 d1 s) :=
  ends_withByte (operates_spoilCc _) fun _ _ => ends_next (.plain rfl)
theorem ends_execOi (i2 : Byte) (b1 : Reg) (d1 : Disp) (s : State) : Ends s (execOi i2 b1 d1 s) :=
  ends_connectByte _ _ _ s
theorem ends_execXi (i2 : Byte) (b1 : Reg) (d1 : Disp) (s : State) : Ends s (execXi i2 b1 d1 s) :=
  ends_connectByte _ _ _ s
theorem ends_execLm (r1 r3 b2 : Reg) (d2 : Disp) (s : State) : Ends s (execLm r1 r3 b2 d2 s) :=
  ends_afterLoad (operates_spoilRegs _ _ _)
    (ends_afterLoad (operates_spoilRegs _ _ _) (ends_next (operates_loadRegs _ _ _ s)))
theorem ends_execSrls (r1 b2 : Reg) (d2 : Disp) (s : State) : Ends s (execSrls r1 b2 d2 s) :=
  ends_next (.plain rfl)
theorem ends_execSlls (r1 b2 : Reg) (d2 : Disp) (s : State) : Ends s (execSlls r1 b2 d2 s) :=
  ends_next (.plain rfl)
theorem ends_execSras (r1 b2 : Reg) (d2 : Disp) (s : State) : Ends s (execSras r1 b2 d2 s) :=
  ends_next (.plain rfl)
theorem ends_execSlas (r1 b2 : Reg) (d2 : Disp) (s : State) : Ends s (execSlas r1 b2 d2 s) :=
  ends_finishArith _ (operates_setLo s r1 _)
theorem ends_execOsi (r1 : Reg) (i2 : Half) (s : State) : Ends s (execOsi r1 i2 s) :=
  ends_next (.plain rfl)
theorem ends_execXsi (r1 : Reg) (i2 : Half) (s : State) : Ends s (execXsi r1 i2 s) :=
  ends_next (.plain rfl)
theorem ends_execLsi (r1 : Reg) (i2 : Half) (s : State) : Ends s (execLsi r1 i2 s) :=
  ends_next (.plain rfl)
theorem ends_execCsi (r1 : Reg) (i2 : Half) (s : State) : Ends s (execCsi r1 i2 s) :=
  ends_next (.plain rfl)
theorem ends_execAsi (r1 : Reg) (i2 : Half) (s : State) : Ends s (execAsi r1 i2 s) :=
  ends_finishArith _ (operates_setLo s r1 _)
theorem ends_execSsi (r1 : Reg) (i2 : Half) (s : State) : Ends s (execSsi r1 i2 s) :=
  ends_finishArith _ (operates_setLo s r1 _)
theorem ends_execTbi (r1 : Reg) (i2 : Half) (s : State) : Ends s (execTbi r1 i2 s) :=
  ends_next (.plain rfl)
theorem ends_execDsi (r1 : Reg) (i2 : Half) (s : State) : Ends s (execDsi r1 i2 s) :=
  ends_divideShort r1 _ s
theorem ends_execMsi (r1 : Reg) (i2 : Half) (s : State) : Ends s (execMsi r1 i2 s) :=
  ends_next (.plain rfl)
theorem ends_execNsi (r1 : Reg) (i2 : Half) (s : State) : Ends s (execNsi r1 i2 s) :=
  ends_next (.plain rfl)
theorem ends_execClsi (r1 : Reg) (i2 : Half) (s : State) : Ends s (execClsi r1 i2 s) :=
  ends_next (.plain rfl)
theorem ends_execLhi (r1 : Reg) (i2 : Half) (s : State) : Ends s (execLhi r1 i2 s) :=
  ends_next (.plain rfl)
theorem ends_execChi (r1 : Reg) (i2 : Half) (s : State) : Ends s (execChi r1 i2 s) :=
  ends_next (.plain rfl)
theorem ends_execAhi (r1 : Reg) (i2 : Half) (s : State) : Ends s (execAhi r1 i2 s) :=
  ends_finishArith _ (operates_setReg s r1 _)
theorem ends_execShi (r1 : Reg) (i2 : Half) (s : State) : Ends s (execShi r1 i2 s) :=
  ends_finishArith _ (operates_setReg s r1 _)
theorem ends_execMhi (r1 : Reg) (i2 : Half) (s : State) : Ends s (execMhi r1 i2 s) :=
  ends_next (.plain rfl)
theorem ends_execLpsr (r1 r2 : Reg) (s : State) : Ends s (execLpsr r1 r2 s) :=
  ends_finishArith _ (operates_setLo s r1 _)
theorem ends_execLnsr (r1 r2 : Reg) (s : State) : Ends s (execLnsr r1 r2 s) :=
  ends_next (.plain rfl)
theorem ends_execLtsr (r1 r2 : Reg) (s : State) : Ends s (execLtsr r1 r2 s) :=
  ends_next (.plain rfl)
theorem ends_execLcsr (r1 r2 : Reg) (s : State) : Ends s (execLcsr r1 r2 s) :=
  ends_finishArith _ (operates_setLo s r1 _)
theorem ends_execNsr (r1 r2 : Reg) (s : State) : Ends s (execNsr r1 r2 s) :=
  ends_next (.plain rfl)
theorem ends_execClsr (r1 r2 : Reg) (s : State) : Ends s (execClsr r1 r2 s) :=
  ends_next (.plain rfl)
theorem ends_execOsr (r1 r2 : Reg) (s : State) : Ends s (execOsr r1 r2 s) :=
  ends_next (.plain rfl)
theorem ends_execXsr (r1 r2 : Reg) (s : State) : Ends s (execXsr r1 r2 s) :=
  ends_next (.plain rfl)
theorem ends_execLsr (r1 r2 : Reg) (s : State) : Ends s (execLsr r1 r2 s) :=
  ends_next (.plain rfl)
theorem ends_execCsr (r1 r2 : Reg) (s : State) : Ends s (execCsr r1 r2 s) :=
  ends_next (.plain rfl)
theorem ends_execAsr (r1 r2 : Reg) (s : State) : Ends s (execAsr r1 r2 s) :=
  ends_finishArith _ (operates_setLo s r1 _)
theorem ends_execSsr (r1 r2 : Reg) (s : State) : Ends s (execSsr r1 r2 s) :=
  ends_finishArith _ (operates_setLo s r1 _)
theorem ends_execMsr (r1 r2 : Reg) (s : State) : Ends s (execMsr r1 r2 s) :=
  ends_next (.plain rfl)
theorem ends_execDsr (r1 r2 : Reg) (s : State) : Ends s (execDsr r1 r2 s) :=
  ends_divideShort r1 _ s
theorem ends_execBur (r2 : Reg) (s : State) : Ends s (execBur r2 s) :=
  ends_next (.plain rfl)
theorem ends_execNrm (r1 r2 : Reg) (s : State) : Ends s (execNrm r1 r2 s) :=
  ends_next (.plain rfl)
theorem ends_execLhr (r1 r2 : Reg) (s : State) : Ends s (execLhr r1 r2 s) :=
  ends_next (.plain rfl)
theorem ends_execMvn (l : Byte) (b1 : Reg) (d1 : Disp) (b2 : Reg) (d2 : Disp) (s : State) : Ends s (execMvn l b1 d1 b2 d2 s) :=
  ends_movedField (operates_combineBytes _ _ _ _ _ s)
theorem ends_execMvc (l : Byte) (b1 : Reg) (d1 : Disp) (b2 : Reg) (d2 : Disp) (s : State) : Ends s (execMvc l b1 d1 b2 d2 s) :=
  ends_movedField (operates_combineBytes _ _ _ _ _ s)
theorem ends_execMvz (l : Byte) (b1 : Reg) (d1 : Disp) (b2 : Reg) (d2 : Disp) (s : State) : Ends s (execMvz l b1 d1 b2 d2 s) :=
  ends_movedField (operates_combineBytes _ _ _ _ _ s)
theorem ends_execNc (l : Byte) (b1 : Reg) (d1 : Disp) (b2 : Reg) (d2 : Disp) (s : State) : Ends s (execNc l b1 d1 b2 d2 s) :=
  ends_storedFieldCc (operates_combineBytes _ _ _ _ _ s)
theorem ends_execClc (l : Byte) (b1 : Reg) (d1 : Disp) (b2 : Reg) (d2 : Disp) (s : State) : Ends s (execClc l b1 d1 b2 d2 s) := by
  unfold execClc
  have o := operates_compareBytes (s.ea b1 d1) (s.ea b2 d2) (Machine.lengthOf l) s
  dsimp only
  split
  · rename_i h
    rw [h] at o
    exact ends_raise _ (Operates.trans o (operates_spoilCc _))
  · rename_i h
    rw [h] at o
    refine ends_after o ?_
    split
    · exact ends_next (operates_setCc _ _)
    · split
      · exact ends_raise _ ((operates_draw _).trans (operates_spoilCc _))
      · exact ends_next ((operates_draw _).trans (operates_setCc _ _))
theorem ends_execOc (l : Byte) (b1 : Reg) (d1 : Disp) (b2 : Reg) (d2 : Disp) (s : State) : Ends s (execOc l b1 d1 b2 d2 s) :=
  ends_storedFieldCc (operates_combineBytes _ _ _ _ _ s)
theorem ends_execXc (l : Byte) (b1 : Reg) (d1 : Disp) (b2 : Reg) (d2 : Disp) (s : State) : Ends s (execXc l b1 d1 b2 d2 s) :=
  ends_storedFieldCc (operates_combineBytes _ _ _ _ _ s)
theorem ends_execTr (l : Byte) (b1 : Reg) (d1 : Disp) (b2 : Reg) (d2 : Disp) (s : State) : Ends s (execTr l b1 d1 b2 d2 s) :=
  ends_storedField (operates_translateBytes _ _ _ s)
theorem ends_execTrt (l : Byte) (b1 : Reg) (d1 : Disp) (b2 : Reg) (d2 : Disp) (s : State) : Ends s (execTrt l b1 d1 b2 d2 s) := by
  unfold execTrt
  have o := operates_scanBytes (s.ea b1 d1) (s.ea b2 d2) (Machine.lengthOf l) s
  split
  · rename_i h
    rw [h] at o
    exact ends_raise _ (Operates.trans o
      (((operates_spoilReg 1 _).trans (operates_spoilReg 2 _)).trans (operates_spoilCc _)))
  · rename_i h
    rw [h] at o
    exact ends_next (Operates.trans o (operates_setCc _ _))
  · rename_i h
    rw [h] at o
    exact ends_next (Operates.trans o (.plain rfl))
theorem ends_execMvo (l1 l2 : BitVec 4) (b1 : Reg) (d1 : Disp) (b2 : Reg) (d2 : Disp) (s : State) : Ends s (execMvo l1 l2 b1 d1 b2 d2 s) :=
  ends_storedField <| (operates_fetchByte s _).bind fun y _ => (operates_fetchByte y.2 _).bind fun x _ =>
    (operates_storeByte x.2 _ _).bind fun t _ => operates_offsetBytes _ _ _ _ _ _ t
theorem ends_execPack (l1 l2 : BitVec 4) (b1 : Reg) (d1 : Disp) (b2 : Reg) (d2 : Disp) (s : State) : Ends s (execPack l1 l2 b1 d1 b2 d2 s) :=
  ends_storedField <| (operates_fetchByte s _).bind fun x _ => (operates_storeByte x.2 _ _).bind fun t _ =>
    operates_packBytes _ _ _ _ _ t
theorem ends_execUnpk (l1 l2 : BitVec 4) (b1 : Reg) (d1 : Disp) (b2 : Reg) (d2 : Disp) (s : State) : Ends s (execUnpk l1 l2 b1 d1 b2 d2 s) :=
  ends_storedField <| (operates_fetchByte s _).bind fun x _ => (operates_storeByte x.2 _ _).bind fun t _ =>
    operates_unpackBytes _ _ _ _ _ _ _ t

end Sys2Proof.Machine
end

