-- ==== Sys2Proof/Laws/PerInstr.lean ====
section
/-! SUPPORT.
Facts about every instruction as syntax, one lemma per constructor.
-/
namespace Sys2Proof.Laws.EncodedLength

/-- The encoded form of an instruction is as long as the length rule says of its first byte (R100, R107). -/
def Statement (i : Instr) : Prop :=
  ∃ op, (encode i).head? = some op ∧ (encode i).length = 2 * instrLength true op

theorem spm (r1 : Reg) : Statement (.spm r1) :=
  ⟨_, rfl, rfl⟩
theorem balr (r1 r2 : Reg) : Statement (.balr r1 r2) :=
  ⟨_, rfl, rfl⟩
theorem bctr (r1 r2 : Reg) : Statement (.bctr r1 r2) :=
  ⟨_, rfl, rfl⟩
theorem bcr (m1 : BitVec 4) (r2 : Reg) : Statement (.bcr m1 r2) :=
  ⟨_, rfl, rfl⟩
theorem ssk (r1 r2 : Reg) : Statement (.ssk r1 r2) :=
  ⟨_, rfl, rfl⟩
theorem svc (code : Byte) : Statement (.svc code) :=
  ⟨_, rfl, rfl⟩
theorem lfsr (r1 r2 : Reg) : Statement (.lfsr r1 r2) :=
  ⟨_, rfl, rfl⟩
theorem lpr (r1 r2 : Reg) : Statement (.lpr r1 r2) :=
  ⟨_, rfl, rfl⟩
theorem lnr (r1 r2 : Reg) : Statement (.lnr r1 r2) :=
  ⟨_, rfl, rfl⟩
theorem ltr (r1 r2 : Reg) : Statement (.ltr r1 r2) :=
  ⟨_, rfl, rfl⟩
theorem lcr (r1 r2 : Reg) : Statement (.lcr r1 r2) :=
  ⟨_, rfl, rfl⟩
theorem nr (r1 r2 : Reg) : Statement (.nr r1 r2) :=
  ⟨_, rfl, rfl⟩
theorem clr (r1 r2 : Reg) : Statement (.clr r1 r2) :=
  ⟨_, rfl, rfl⟩
theorem or (r1 r2 : Reg) : Statement (.or r1 r2) :=
  ⟨_, rfl, rfl⟩
theorem xr (r1 r2 : Reg) : Statement (.xr r1 r2) :=
  ⟨_, rfl, rfl⟩
theorem lr (r1 r2 : Reg) : Statement (.lr r1 r2) :=
  ⟨_, rfl, rfl⟩
theorem cr (r1 r2 : Reg) : Statement (.cr r1 r2) :=
  ⟨_, rfl, rfl⟩
theorem ar (r1 r2 : Reg) : Statement (.ar r1 r2) :=
  ⟨_, rfl, rfl⟩
theorem sr (r1 r2 : Reg) : Statement (.sr r1 r2) :=
  ⟨_, rfl, rfl⟩
theorem mr (r1 r2 : Reg) : Statement (.mr r1 r2) :=
  ⟨_, rfl, rfl⟩
theorem dr (r1 r2 : Reg) : Statement (.dr r1 r2) :=
  ⟨_, rfl, rfl⟩
theorem alr (r1 r2 : Reg) : Statement (.alr r1 r2) :=
  ⟨_, rfl, rfl⟩
theorem slr (r1 r2 : Reg) : Statement (.slr r1 r2) :=
  ⟨_, rfl, rfl⟩
theorem lcdr (r1 r2 : Reg) : Statement (.lcdr r1 r2) :=
  ⟨_, rfl, rfl⟩
theorem ldr (r1 r2 : Reg) : Statement (.ldr r1 r2) :=
  ⟨_, rfl, rfl⟩
theorem cdr (r1 r2 : Reg) : Statement (.cdr r1 r2) :=
  ⟨_, rfl, rfl⟩
theorem adr (r1 r2 : Reg) : Statement (.adr r1 r2) :=
  ⟨_, rfl, rfl⟩
theorem sdr (r1 r2 : Reg) : Statement (.sdr r1 r2) :=
  ⟨_, rfl, rfl⟩
theorem lper (r1 r2 : Reg) : Statement (.lper r1 r2) :=
  ⟨_, rfl, rfl⟩
theorem lner (r1 r2 : Reg) : Statement (.lner r1 r2) :=
  ⟨_, rfl, rfl⟩
theorem lter (r1 r2 : Reg) : Statement (.lter r1 r2) :=
  ⟨_, rfl, rfl⟩
theorem lcer (r1 r2 : Reg) : Statement (.lcer r1 r2) :=
  ⟨_, rfl, rfl⟩
theorem her (r1 r2 : Reg) : Statement (.her r1 r2) :=
  ⟨_, rfl, rfl⟩
theorem ler (r1 r2 : Reg) : Statement (.ler r1 r2) :=
  ⟨_, rfl, rfl⟩
theorem cer (r1 r2 : Reg) : Statement (.cer r1 r2) :=
  ⟨_, rfl, rfl⟩
theorem aer (r1 r2 : Reg) : Statement (.aer r1 r2) :=
  ⟨_, rfl, rfl⟩
theorem ser (r1 r2 : Reg) : Statement (.ser r1 r2) :=
  ⟨_, rfl, rfl⟩
theorem mer (r1 r2 : Reg) : Statement (.mer r1 r2) :=
  ⟨_, rfl, rfl⟩
theorem der (r1 r2 : Reg) : Statement (.der r1 r2) :=
  ⟨_, rfl, rfl⟩
theorem aur (r1 r2 : Reg) : Statement (.aur r1 r2) :=
  ⟨_, rfl, rfl⟩
theorem sur (r1 r2 : Reg) : Statement (.sur r1 r2) :=
  ⟨_, rfl, rfl⟩
theorem sth (r1 x2 b2 : Reg) (d2 : Disp) : Statement (.sth r1 x2 b2 d2) :=
  ⟨_, rfl, rfl⟩
theorem la (r1 x2 b2 : Reg) (d2 : Disp) : Statement (.la r1 x2 b2 d2) :=
  ⟨_, rfl, rfl⟩
theorem stc (r1 x2 b2 : Reg) (d2 : Disp) : Statement (.stc r1 x2 b2 d2) :=
  ⟨_, rfl, rfl⟩
theorem ic (r1 x2 b2 : Reg) (d2 : Disp) : Statement (.ic r1 x2 b2 d2) :=
  ⟨_, rfl, rfl⟩
theorem ex (r1 x2 b2 : Reg) (d2 : Disp) : Statement (.ex r1 x2 b2 d2) :=
  ⟨_, rfl, rfl⟩
theorem bal (r1 x2 b2 : Reg) (d2 : Disp) : Statement (.bal r1 x2 b2 d2) :=
  ⟨_, rfl, rfl⟩
theorem bct (r1 x2 b2 : Reg) (d2 : Disp) : Statement (.bct r1 x2 b2 d2) :=
  ⟨_, rfl, rfl⟩
theorem bc (m1 : BitVec 4) (x2 b2 : Reg) (d2 : Disp) : Statement (.bc m1 x2 b2 d2) :=
  ⟨_, rfl, rfl⟩
theorem lh (r1 x2 b2 : Reg) (d2 : Disp) : Statement (.lh r1 x2 b2 d2) :=
  ⟨_, rfl, rfl⟩
theorem ch (r1 x2 b2 : Reg) (d2 : Disp) : Statement (.ch r1 x2 b2 d2) :=
  ⟨_, rfl, rfl⟩
theorem ah (r1 x2 b2 : Reg) (d2 : Disp) : Statement (.ah r1 x2 b2 d2) :=
  ⟨_, rfl, rfl⟩
theorem sh (r1 x2 b2 : Reg) (d2 : Disp) : Statement (.sh r1 x2 b2 d2) :=
  ⟨_, rfl, rfl⟩
theorem mh (r1 x2 b2 : Reg) (d2 : Disp) : Statement (.mh r1 x2 b2 d2) :=
  ⟨_, rfl, rfl⟩
theorem ds (r1 x2 b2 : Reg) (d2 : Disp) : Statement (.ds r1 x2 b2 d2) :=
  ⟨_, rfl, rfl⟩
theorem cvd (r1 x2 b2 : Reg) (d2 : Disp) : Statement (.cvd r1 x2 b2 d2) :=
  ⟨_, rfl, rfl⟩
theorem cvb (r1 x2 b2 : Reg) (d2 : Disp) : Statement (.cvb r1 x2 b2 d2) :=
  ⟨_, rfl, rfl⟩
theorem st (r1 x2 b2 : Reg) (d2 : Disp) : Statement (.st r1 x2 b2 d2) :=
  ⟨_, rfl, rfl⟩
theorem las (r1 x2 b2 : Reg) (d2 : Disp) : Statement (.las r1 x2 b2 d2) :=
  ⟨_, rfl, rfl⟩
theorem lts (r1 x2 b2 : Reg) (d2 : Disp) : Statement (.lts r1 x2 b2 d2) :=
  ⟨_, rfl, rfl⟩
theorem as (r1 x2 b2 : Reg) (d2 : Disp) : Statement (.as r1 x2 b2 d2) :=
  ⟨_, rfl, rfl⟩
theorem n (r1 x2 b2 : Reg) (d2 : Disp) : Statement (.n r1 x2 b2 d2) :=
  ⟨_, rfl, rfl⟩
theorem cl (r1 x2 b2 : Reg) (d2 : Disp) : Statement (.cl r1 x2 b2 d2) :=
  ⟨_, rfl, rfl⟩
theorem o (r1 x2 b2 : Reg) (d2 : Disp) : Statement (.o r1 x2 b2 d2) :=
  ⟨_, rfl, rfl⟩
theorem x (r1 x2 b2 : Reg) (d2 : Disp) : Statement (.x r1 x2 b2 d2) :=
  ⟨_, rfl, rfl⟩
theorem l (r1 x2 b2 : Reg) (d2 : Disp) : Statement (.l r1 x2 b2 d2) :=
  ⟨_, rfl, rfl⟩
theorem c (r1 x2 b2 : Reg) (d2 : Disp) : Statement (.c r1 x2 b2 d2) :=
  ⟨_, rfl, rfl⟩
theorem a (r1 x2 b2 : Reg) (d2 : Disp) : Statement (.a r1 x2 b2 d2) :=
  ⟨_, rfl, rfl⟩
theorem s (r1 x2 b2 : Reg) (d2 : Disp) : Statement (.s r1 x2 b2 d2) :=
  ⟨_, rfl, rfl⟩
theorem m (r1 x2 b2 : Reg) (d2 : Disp) : Statement (.m r1 x2 b2 d2) :=
  ⟨_, rfl, rfl⟩
theorem d (r1 x2 b2 : Reg) (d2 : Disp) : Statement (.d r1 x2 b2 d2) :=
  ⟨_, rfl, rfl⟩
theorem al (r1 x2 b2 : Reg) (d2 : Disp) : Statement (.al r1 x2 b2 d2) :=
  ⟨_, rfl, rfl⟩
theorem sl (r1 x2 b2 : Reg) (d2 : Disp) : Statement (.sl r1 x2 b2 d2) :=
  ⟨_, rfl, rfl⟩
theorem std (r1 x2 b2 : Reg) (d2 : Disp) : Statement (.std r1 x2 b2 d2) :=
  ⟨_, rfl, rfl⟩
theorem cs (r1 x2 b2 : Reg) (d2 : Disp) : Statement (.cs r1 x2 b2 d2) :=
  ⟨_, rfl, rfl⟩
theorem lt (r1 x2 b2 : Reg) (d2 : Disp) : Statement (.lt r1 x2 b2 d2) :=
  ⟨_, rfl, rfl⟩
theorem xs (r1 x2 b2 : Reg) (d2 : Disp) : Statement (.xs r1 x2 b2 d2) :=
  ⟨_, rfl, rfl⟩
theorem ns (r1 x2 b2 : Reg) (d2 : Disp) : Statement (.ns r1 x2 b2 d2) :=
  ⟨_, rfl, rfl⟩
theorem cls (r1 x2 b2 : Reg) (d2 : Disp) : Statement (.cls r1 x2 b2 d2) :=
  ⟨_, rfl, rfl⟩
theorem os (r1 x2 b2 : Reg) (d2 : Disp) : Statement (.os r1 x2 b2 d2) :=
  ⟨_, rfl, rfl⟩
theorem ld (r1 x2 b2 : Reg) (d2 : Disp) : Statement (.ld r1 x2 b2 d2) :=
  ⟨_, rfl, rfl⟩
theorem cd (r1 x2 b2 : Reg) (d2 : Disp) : Statement (.cd r1 x2 b2 d2) :=
  ⟨_, rfl, rfl⟩
theorem ad (r1 x2 b2 : Reg) (d2 : Disp) : Statement (.ad r1 x2 b2 d2) :=
  ⟨_, rfl, rfl⟩
theorem sd (r1 x2 b2 : Reg) (d2 : Disp) : Statement (.sd r1 x2 b2 d2) :=
  ⟨_, rfl, rfl⟩
theorem ste (r1 x2 b2 : Reg) (d2 : Disp) : Statement (.ste r1 x2 b2 d2) :=
  ⟨_, rfl, rfl⟩
theorem ms (r1 x2 b2 : Reg) (d2 : Disp) : Statement (.ms r1 x2 b2 d2) :=
  ⟨_, rfl, rfl⟩
theorem ss (r1 x2 b2 : Reg) (d2 : Disp) : Statement (.ss r1 x2 b2 d2) :=
  ⟨_, rfl, rfl⟩
theorem bu (x2 b2 : Reg) (d2 : Disp) : Statement (.bu x2 b2 d2) :=
  ⟨_, rfl, rfl⟩
theorem ls (r1 x2 b2 : Reg) (d2 : Disp) : Statement (.ls r1 x2 b2 d2) :=
  ⟨_, rfl, rfl⟩
theorem tb (r1 x2 b2 : Reg) (d2 : Disp) : Statement (.tb r1 x2 b2 d2) :=
  ⟨_, rfl, rfl⟩
theorem le (r1 x2 b2 : Reg) (d2 : Disp) : Statement (.le r1 x2 b2 d2) :=
  ⟨_, rfl, rfl⟩
theorem ce (r1 x2 b2 : Reg) (d2 : Disp) : Statement (.ce r1 x2 b2 d2) :=
  ⟨_, rfl, rfl⟩
theorem ae (r1 x2 b2 : Reg) (d2 : Disp) : Statement (.ae r1 x2 b2 d2) :=
  ⟨_, rfl, rfl⟩
theorem se (r1 x2 b2 : Reg) (d2 : Disp) : Statement (.se r1 x2 b2 d2) :=
  ⟨_, rfl, rfl⟩
theorem me (r1 x2 b2 : Reg) (d2 : Disp) : Statement (.me r1 x2 b2 d2) :=
  ⟨_, rfl, rfl⟩
theorem de (r1 x2 b2 : Reg) (d2 : Disp) : Statement (.de r1 x2 b2 d2) :=
  ⟨_, rfl, rfl⟩
theorem au (r1 x2 b2 : Reg) (d2 : Disp) : Statement (.au r1 x2 b2 d2) :=
  ⟨_, rfl, rfl⟩
theorem su (r1 x2 b2 : Reg) (d2 : Disp) : Statement (.su r1 x2 b2 d2) :=
  ⟨_, rfl, rfl⟩
theorem ssm (b1 : Reg) (d1 : Disp) : Statement (.ssm b1 d1) :=
  ⟨_, rfl, rfl⟩
theorem lpsw (b1 : Reg) (d1 : Disp) : Statement (.lpsw b1 d1) :=
  ⟨_, rfl, rfl⟩
theorem diagnose (i2 : Byte) (b1 : Reg) (d1 : Disp) : Statement (.diagnose i2 b1 d1) :=
  ⟨_, rfl, rfl⟩
theorem bxh (r1 r3 b2 : Reg) (d2 : Disp) : Statement (.bxh r1 r3 b2 d2) :=
  ⟨_, rfl, rfl⟩
theorem bxle (r1 r3 b2 : Reg) (d2 : Disp) : Statement (.bxle r1 r3 b2 d2) :=
  ⟨_, rfl, rfl⟩
theorem srl (r1 b2 : Reg) (d2 : Disp) : Statement (.srl r1 b2 d2) :=
  ⟨_, rfl, rfl⟩
theorem sll (r1 b2 : Reg) (d2 : Disp) : Statement (.sll r1 b2 d2) :=
  ⟨_, rfl, rfl⟩
theorem sra (r1 b2 : Reg) (d2 : Disp) : Statement (.sra r1 b2 d2) :=
  ⟨_, rfl, rfl⟩
theorem sla (r1 b2 : Reg) (d2 : Disp) : Statement (.sla r1 b2 d2) :=
  ⟨_, rfl, rfl⟩
theorem srdl (r1 b2 : Reg) (d2 : Disp) : Statement (.srdl r1 b2 d2) :=
  ⟨_, rfl, rfl⟩
theorem sldl (r1 b2 : Reg) (d2 : Disp) : Statement (.sldl r1 b2 d2) :=
  ⟨_, rfl, rfl⟩
theorem srda (r1 b2 : Reg) (d2 : Disp) : Statement (.srda r1 b2 d2) :=
  ⟨_, rfl, rfl⟩
theorem slda (r1 b2 : Reg) (d2 : Disp) : Statement (.slda r1 b2 d2) :=
  ⟨_, rfl, rfl⟩
theorem stm (r1 r3 b2 : Reg) (d2 : Disp) : Statement (.stm r1 r3 b2 d2) :=
  ⟨_, rfl, rfl⟩
theorem tm (i2 : Byte) (b1 : Reg) (d1 : Disp) : Statement (.tm i2 b1 d1) :=
  ⟨_, rfl, rfl⟩
theorem mvi (i2 : Byte) (b1 : Reg) (d1 : Disp) : Statement (.mvi i2 b1 d1) :=
  ⟨_, rfl, rfl⟩
theorem ts (b1 : Reg) (d1 : Disp) : Statement (.ts b1 d1) :=
  ⟨_, rfl, rfl⟩
theorem ni (i2 : Byte) (b1 : Reg) (d1 : Disp) : Statement (.ni i2 b1 d1) :=
  ⟨_, rfl, rfl⟩
theorem cli (i2 : Byte) (b1 : Reg) (d1 : Disp) : Statement (.cli i2 b1 d1) :=
  ⟨_, rfl, rfl⟩
theorem oi (i2 : Byte) (b1 : Reg) (d1 : Disp) : Statement (.oi i2 b1 d1) :=
  ⟨_, rfl, rfl⟩
theorem xi (i2 : Byte) (b1 : Reg) (d1 : Disp) : Statement (.xi i2 b1 d1) :=
  ⟨_, rfl, rfl⟩
theorem lm (r1 r3 b2 : Reg) (d2 : Disp) : Statement (.lm r1 r3 b2 d2) :=
  ⟨_, rfl, rfl⟩
theorem srls (r1 b2 : Reg) (d2 : Disp) : Statement (.srls r1 b2 d2) :=
  ⟨_, rfl, rfl⟩
theorem slls (r1 b2 : Reg) (d2 : Disp) : Statement (.slls r1 b2 d2) :=
  ⟨_, rfl, rfl⟩
theorem sras (r1 b2 : Reg) (d2 : Disp) : Statement (.sras r1 b2 d2) :=
  ⟨_, rfl, rfl⟩
theorem slas (r1 b2 : Reg) (d2 : Disp) : Statement (.slas r1 b2 d2) :=
  ⟨_, rfl, rfl⟩
theorem tmrs (fn : BitVec 4) (r3 b2 : Reg) (d2 : Disp) : Statement (.tmrs fn r3 b2 d2) :=
  ⟨_, rfl, rfl⟩
theorem sio (r1 r3 b2 : Reg) (d2 : Disp) : Statement (.sio r1 r3 b2 d2) :=
  ⟨_, rfl, rfl⟩
theorem osi (r1 : Reg) (i2 : Half) : Statement (.osi r1 i2) :=
  ⟨_, rfl, rfl⟩
theorem xsi (r1 : Reg) (i2 : Half) : Statement (.xsi r1 i2) :=
  ⟨_, rfl, rfl⟩
theorem lsi (r1 : Reg) (i2 : Half) : Statement (.lsi r1 i2) :=
  ⟨_, rfl, rfl⟩
theorem csi (r1 : Reg) (i2 : Half) : Statement (.csi r1 i2) :=
  ⟨_, rfl, rfl⟩
theorem asi (r1 : Reg) (i2 : Half) : Statement (.asi r1 i2) :=
  ⟨_, rfl, rfl⟩
theorem ssi (r1 : Reg) (i2 : Half) : Statement (.ssi r1 i2) :=
  ⟨_, rfl, rfl⟩
theorem tbi (r1 : Reg) (i2 : Half) : Statement (.tbi r1 i2) :=
  ⟨_, rfl, rfl⟩
theorem dsi (r1 : Reg) (i2 : Half) : Statement (.dsi r1 i2) :=
  ⟨_, rfl, rfl⟩
theorem msi (r1 : Reg) (i2 : Half) : Statement (.msi r1 i2) :=
  ⟨_, rfl, rfl⟩
theorem nsi (r1 : Reg) (i2 : Half) : Statement (.nsi r1 i2) :=
  ⟨_, rfl, rfl⟩
theorem clsi (r1 : Reg) (i2 : Half) : Statement (.clsi r1 i2) :=
  ⟨_, rfl, rfl⟩
theorem lhi (r1 : Reg) (i2 : Half) : Statement (.lhi r1 i2) :=
  ⟨_, rfl, rfl⟩
theorem chi (r1 : Reg) (i2 : Half) : Statement (.chi r1 i2) :=
  ⟨_, rfl, rfl⟩
theorem ahi (r1 : Reg) (i2 : Half) : Statement (.ahi r1 i2) :=
  ⟨_, rfl, rfl⟩
theorem shi (r1 : Reg) (i2 : Half) : Statement (.shi r1 i2) :=
  ⟨_, rfl, rfl⟩
theorem mhi (r1 : Reg) (i2 : Half) : Statement (.mhi r1 i2) :=
  ⟨_, rfl, rfl⟩
theorem lpsr (r1 r2 : Reg) : Statement (.lpsr r1 r2) :=
  ⟨_, rfl, rfl⟩
theorem lnsr (r1 r2 : Reg) : Statement (.lnsr r1 r2) :=
  ⟨_, rfl, rfl⟩
theorem ltsr (r1 r2 : Reg) : Statement (.ltsr r1 r2) :=
  ⟨_, rfl, rfl⟩
theorem lcsr (r1 r2 : Reg) : Statement (.lcsr r1 r2) :=
  ⟨_, rfl, rfl⟩
theorem nsr (r1 r2 : Reg) : Statement (.nsr r1 r2) :=
  ⟨_, rfl, rfl⟩
theorem clsr (r1 r2 : Reg) : Statement (.clsr r1 r2) :=
  ⟨_, rfl, rfl⟩
theorem osr (r1 r2 : Reg) : Statement (.osr r1 r2) :=
  ⟨_, rfl, rfl⟩
theorem xsr (r1 r2 : Reg) : Statement (.xsr r1 r2) :=
  ⟨_, rfl, rfl⟩
theorem lsr (r1 r2 : Reg) : Statement (.lsr r1 r2) :=
  ⟨_, rfl, rfl⟩
theorem csr (r1 r2 : Reg) : Statement (.csr r1 r2) :=
  ⟨_, rfl, rfl⟩
theorem asr (r1 r2 : Reg) : Statement (.asr r1 r2) :=
  ⟨_, rfl, rfl⟩
theorem ssr (r1 r2 : Reg) : Statement (.ssr r1 r2) :=
  ⟨_, rfl, rfl⟩
theorem msr (r1 r2 : Reg) : Statement (.msr r1 r2) :=
  ⟨_, rfl, rfl⟩
theorem dsr (r1 r2 : Reg) : Statement (.dsr r1 r2) :=
  ⟨_, rfl, rfl⟩
theorem bur (r2 : Reg) : Statement (.bur r2) :=
  ⟨_, rfl, rfl⟩
theorem nrm (r1 r2 : Reg) : Statement (.nrm r1 r2) :=
  ⟨_, rfl, rfl⟩
theorem lhr (r1 r2 : Reg) : Statement (.lhr r1 r2) :=
  ⟨_, rfl, rfl⟩
theorem mvn (l : Byte) (b1 : Reg) (d1 : Disp) (b2 : Reg) (d2 : Disp) : Statement (.mvn l b1 d1 b2 d2) :=
  ⟨_, rfl, rfl⟩
theorem mvc (l : Byte) (b1 : Reg) (d1 : Disp) (b2 : Reg) (d2 : Disp) : Statement (.mvc l b1 d1 b2 d2) :=
  ⟨_, rfl, rfl⟩
theorem mvz (l : Byte) (b1 : Reg) (d1 : Disp) (b2 : Reg) (d2 : Disp) : Statement (.mvz l b1 d1 b2 d2) :=
  ⟨_, rfl, rfl⟩
theorem nc (l : Byte) (b1 : Reg) (d1 : Disp) (b2 : Reg) (d2 : Disp) : Statement (.nc l b1 d1 b2 d2) :=
  ⟨_, rfl, rfl⟩
theorem clc (l : Byte) (b1 : Reg) (d1 : Disp) (b2 : Reg) (d2 : Disp) : Statement (.clc l b1 d1 b2 d2) :=
  ⟨_, rfl, rfl⟩
theorem oc (l : Byte) (b1 : Reg) (d1 : Disp) (b2 : Reg) (d2 : Disp) : Statement (.oc l b1 d1 b2 d2) :=
  ⟨_, rfl, rfl⟩
theorem xc (l : Byte) (b1 : Reg) (d1 : Disp) (b2 : Reg) (d2 : Disp) : Statement (.xc l b1 d1 b2 d2) :=
  ⟨_, rfl, rfl⟩
theorem tr (l : Byte) (b1 : Reg) (d1 : Disp) (b2 : Reg) (d2 : Disp) : Statement (.tr l b1 d1 b2 d2) :=
  ⟨_, rfl, rfl⟩
theorem trt (l : Byte) (b1 : Reg) (d1 : Disp) (b2 : Reg) (d2 : Disp) : Statement (.trt l b1 d1 b2 d2) :=
  ⟨_, rfl, rfl⟩
theorem mvo (l1 l2 : BitVec 4) (b1 : Reg) (d1 : Disp) (b2 : Reg) (d2 : Disp) : Statement (.mvo l1 l2 b1 d1 b2 d2) :=
  ⟨_, rfl, rfl⟩
theorem pack (l1 l2 : BitVec 4) (b1 : Reg) (d1 : Disp) (b2 : Reg) (d2 : Disp) : Statement (.pack l1 l2 b1 d1 b2 d2) :=
  ⟨_, rfl, rfl⟩
theorem unpk (l1 l2 : BitVec 4) (b1 : Reg) (d1 : Disp) (b2 : Reg) (d2 : Disp) : Statement (.unpk l1 l2 b1 d1 b2 d2) :=
  ⟨_, rfl, rfl⟩

end Sys2Proof.Laws.EncodedLength
end

