-- ==== Sys2Proof/Laws/Results.lean ====
section
/-! SUPPORT.
What each way of putting a result down leaves, and what each condition-code computation says in exact arithmetic.
-/
namespace Sys2Proof.Machine

/-! ## Putting a result down -/

theorem ccResult_setCc (s : State) (c : Cc) : CcResult s c (s.setCc c) :=
  ⟨rfl, fun _ _ => rfl, rfl, fun _ => rfl, rfl⟩

theorem regResult_setReg (s : State) (r : Reg) (v : Word) : RegResult s r v s.psw.cc (s.setReg r v) :=
  ⟨by simp, rfl, fun q hq => State.reg_setReg_ne s v (by simpa using hq), rfl, fun _ => rfl, rfl⟩

theorem regResult_setReg_setCc (s : State) (r : Reg) (v : Word) (c : Cc) :
    RegResult s r v c ((s.setReg r v).setCc c) :=
  ⟨by simp, rfl, fun q hq => State.reg_setReg_ne s v (by simpa using hq), rfl, fun _ => rfl, rfl⟩

theorem loResult_setLo (s : State) (r : Reg) (v : Half) : LoResult s r v s.psw.cc (s.setLo r v) :=
  regResult_setReg s r _

theorem loResult_setLo_setCc (s : State) (r : Reg) (v : Half) (c : Cc) : LoResult s r v c ((s.setLo r v).setCc c) :=
  regResult_setReg_setCc s r _ c

theorem pairResult_setPair_setCc (s : State) {r : Reg} (h : evenReg r = true) (v : Dword) (c : Cc) :
    PairResult s r v c ((s.setPair r v).setCc c) := by
  refine ⟨?_, ?_, rfl, ?_, rfl, fun _ => rfl, rfl⟩
  · rw [State.setCc_reg, State.reg_setPair, oddOf_even h, if_neg (even_succ_ne h).symm, if_pos rfl]
  · rw [State.setCc_reg, State.reg_setPair, oddOf_even h, if_pos rfl]
  · intro q hq
    simp only [List.mem_cons, List.not_mem_nil, or_false, not_or] at hq
    rw [State.setCc_reg, State.reg_setPair, oddOf_even h, if_neg hq.2, if_neg hq.1]

theorem pairResult_setPair (s : State) {r : Reg} (h : evenReg r = true) (v : Dword) :
    PairResult s r v s.psw.cc (s.setPair r v) :=
  pairResult_setPair_setCc s h v s.psw.cc

theorem fprResult_setFp_setCc (s : State) {r : Reg} (h : fpReg r = true) (v : Word) (c : Cc) :
    FprResult s r v c ((s.setFp r v).setCc c) :=
  ⟨State.fp_setFp_self s r v, rfl, fun q hq hne => by
    show (s.setFp r v).fp q = _
    rw [State.fp_setFp s r q v h hq, if_neg hne], fun _ _ => rfl, fun _ => rfl, rfl⟩

theorem fprResult_setFp (s : State) {r : Reg} (h : fpReg r = true) (v : Word) :
    FprResult s r v s.psw.cc (s.setFp r v) :=
  fprResult_setFp_setCc s h v s.psw.cc

theorem storeResult_setBytes_setCc (s : State) (a : Addr) (bs : List Byte) (hn : bs.length ≤ 2 ^ 20) (c : Cc) :
    StoreResult s a bs c ((s.setBytes a bs).setCc c) := by
  refine ⟨?_, ?_, fun x hx => State.byte_setBytes_out s a x bs hx, fun q _ => by simp, by simp, ?_⟩
  · rw [State.bytes_eq_iff]
    exact fun k h => State.byte_setBytes_in s a bs hn k h
  · simp
  · rw [State.setBytes_eq]; rfl

theorem storeResult_setBytes (s : State) (a : Addr) (bs : List Byte) (hn : bs.length ≤ 2 ^ 20) :
    StoreResult s a bs s.psw.cc (s.setBytes a bs) := by
  refine ⟨State.bytes_setBytes s a bs hn, by simp, fun x hx => State.byte_setBytes_out s a x bs hx, fun q _ => by simp,
    by simp, ?_⟩
  rw [State.setBytes_eq]; rfl

/-! ## Exact arithmetic -/

theorem fits_iff (w : Nat) (x : Int) : fits w x = true ↔ InRange w x := by
  unfold fits InRange
  simp only [Bool.and_eq_true, decide_eq_true_eq]
  constructor <;> rintro ⟨h1, h2⟩ <;> exact ⟨h1, by omega⟩

/-- An exact integer in range is the integer of its bits. -/
theorem toInt_ofInt_inRange {w : Nat} (hw : 0 < w) {x : Int} (h : InRange w x) : (BitVec.ofInt w x).toInt = x := by
  rw [BitVec.toInt_ofInt]
  obtain ⟨h1, h2⟩ := h
  obtain ⟨n, rfl⟩ : ∃ n, w = n + 1 := ⟨w - 1, by omega⟩
  simp only [Nat.add_sub_cancel] at h1 h2
  apply Int.bmod_eq_of_le
  · rw [Nat.pow_succ]; push_cast; omega
  · rw [Nat.pow_succ]; push_cast; omega

/-- The sign of a result is the sign of the exact result. -/
theorem ccS_eq {w : Nat} (r : BitVec w) : ccS r = ccOfSign r.toInt := by
  unfold ccS ccOfSign
  have h : r = 0 ↔ r.toInt = 0 := by
    constructor
    · rintro rfl; simp
    · intro h; exact BitVec.eq_of_toInt_eq (by simpa using h)
  simp only [h]

theorem ccCompare_eq (a b : Int) : ccCompare a b = ccOfOrder a b := by
  unfold ccCompare ccOfOrder ccOfSign
  split_ifs <;> first | rfl | omega

/-- The end of an arithmetic instruction whose result is the exact integer `x` narrowed to `w` bits. -/
theorem endsArith_of_finish {i : Instr} {s u : State} {w : Nat} {x : Int} {p : Cc → State → Prop} (hw : 0 < w)
    (he : exec i s = finishArith (narrow w x) u) (hp : ∀ c, p c (u.setCc c)) (hm : u.maskOverflow = s.maskOverflow) :
    EndsArith i s w x p := by
  refine ⟨fun h => ?_, fun h hs => ?_, fun h hs => ?_⟩
  · have hf := (fits_iff w x).2 h
    refine ⟨_, ?_, hp (ccOfSign x)⟩
    rw [he]
    simp [finishArith, narrow, hf, ccArith, ccS_eq, toInt_ofInt_inRange hw h]
  · have hf : fits w x = false := by simpa using fun e => h ((fits_iff w x).1 e)
    refine ⟨_, ?_, hp 3⟩
    rw [he]
    simp [finishArith, narrow, hf, ccArith, hm, hs]
  · have hf : fits w x = false := by simpa using fun e => h ((fits_iff w x).1 e)
    refine ⟨_, ?_, hp 3⟩
    rw [he]
    simp [finishArith, narrow, hf, ccArith, hm, hs]

theorem narrow_fst_add {w : Nat} (a b : BitVec w) : (narrow w (a.toInt + b.toInt)).1 = a + b := by
  simp [narrow, BitVec.ofInt_add]

theorem narrow_fst_sub {w : Nat} (a b : BitVec w) : (narrow w (a.toInt - b.toInt)).1 = a - b := by
  simp [narrow, Int.sub_eq_add_neg, BitVec.ofInt_add, BitVec.ofInt_neg, BitVec.sub_eq_add_neg]

theorem narrow_fst_neg {w : Nat} (y : BitVec w) : (narrow w (-y.toInt)).1 = -y := by simp [narrow, BitVec.ofInt_neg]

theorem subS_zero {w : Nat} (y : BitVec w) : subS 0 y = narrow w (-y.toInt) := by simp [subS]

theorem inRange_toInt {w : Nat} (hw : 0 < w) (v : BitVec w) : InRange w v.toInt := by
  obtain ⟨n, rfl⟩ : ∃ n, w = n + 1 := ⟨w - 1, by omega⟩
  have h1 := v.toInt_lt
  have h2 := v.le_toInt
  simp only [InRange, Nat.add_sub_cancel] at *
  constructor <;> omega

/-- The negative of an absolute value is always representable. -/
theorem inRange_negAbs {w : Nat} (hw : 0 < w) (v : BitVec w) : InRange w (-(v.toInt.natAbs : Int)) := by
  obtain ⟨n, rfl⟩ : ∃ n, w = n + 1 := ⟨w - 1, by omega⟩
  have h1 := v.toInt_lt
  have h2 := v.le_toInt
  simp only [InRange, Nat.add_sub_cancel] at *
  constructor <;> omega

theorem negAbs_eq {w : Nat} (v : BitVec w) : negAbs v = BitVec.ofInt w (-(v.toInt.natAbs : Int)) := by
  unfold negAbs
  split
  · rename_i h; congr 1; omega
  · rename_i h; rw [show (-(v.toInt.natAbs : Int)) = v.toInt by omega]; simp

/-- The absolute value is the exact one, narrowed. -/
theorem absS_eq {w : Nat} (hw : 0 < w) (y : BitVec w) : absS y = narrow w y.toInt.natAbs := by
  unfold absS
  split
  · rename_i h
    rw [subS_zero]; congr 1; omega
  · rename_i h
    rw [show (y.toInt.natAbs : Int) = y.toInt by omega, narrow, (fits_iff w _).2 (inRange_toInt hw y)]
    simp

theorem narrow_fst_abs {w : Nat} (y : BitVec w) : (narrow w y.toInt.natAbs).1 = if y.msb then -y else y := by
  rw [BitVec.msb_eq_toInt]
  by_cases h : y.toInt < 0
  · rw [show (y.toInt.natAbs : Int) = -y.toInt by omega, narrow_fst_neg]; simp [h]
  · rw [show (y.toInt.natAbs : Int) = y.toInt by omega]; simp [h, narrow]

/-- The quotient rounded toward zero is the one whose remainder has the dividend's sign. -/
theorem tdiv_unique {n q d m : Int} (h : n = q * d + m) (hm : m.natAbs < d.natAbs) (hs : m = 0 ∨ (m < 0 ↔ n < 0)) :
    n.tdiv d = q := by
  have h1 := Int.tmod_add_mul_tdiv n d
  have h2 : (n.tmod d).natAbs < d.natAbs := by
    rw [Int.natAbs_tmod]; exact Nat.mod_lt _ (by omega)
  have h3 : n.tmod d = 0 ∨ (n.tmod d < 0 ↔ n < 0) := by
    rcases lt_or_ge n 0 with hn | hn
    · have := Int.tmod_nonneg d (show 0 ≤ -n by omega)
      rw [Int.neg_tmod] at this
      omega
    · have := Int.tmod_nonneg d hn
      omega
  have h4 : d * (n.tdiv d - q) = m - n.tmod d := by
    have : d * (n.tdiv d - q) = d * n.tdiv d - q * d := by ring
    rw [this]; omega
  have h5 : (d * (n.tdiv d - q)).natAbs < d.natAbs := by
    rw [h4]; omega
  rw [Int.natAbs_mul] at h5
  have : (n.tdiv d - q).natAbs = 0 := by
    by_contra hne
    have := Nat.le_mul_of_pos_right d.natAbs (show 0 < (n.tdiv d - q).natAbs by omega)
    omega
  omega

end Sys2Proof.Machine
end

