-- ==== Sys2Proof/Laws/Step.lean ====
section
/-! SUPPORT.
What one step is: whose move it is, and what the fetch gives.
-/
namespace Sys2Proof.Machine

/-- Where no other agent is to move, a step is the CPU's. -/
theorem step_cpu {s : State} (hw : s.params.wf = true) (he : s.env = []) : step s = s.cpuCycle := by
  simp [step, State.boundary, hw, he]

/-- Where another agent is to move, a step is its move. -/
theorem step_move {s : State} {m : Move} {r : List Move} (hw : s.params.wf = true) (he : s.env = m :: r) :
    step s = m.act { s with env := r } := by
  simp [step, State.boundary, hw, he]

/-- A step answers a next state only on an installation that can exist. -/
theorem step_next {s t : State} (h : step s = .next t) : s.params.wf = true := by
  by_contra hw
  simp [step, State.boundary, hw] at h

/-- A running machine with nothing to interrupt it fetches an instruction. -/
theorem step_fetches {s : State} (h : s.Fetches) : step s = s.runInstr := by
  obtain ⟨hw, he, hm, hp, ht, hc⟩ := h
  rw [step_cpu hw he, State.cpuCycle, hm]
  simp only
  rw [if_neg (by simpa using ht), if_neg (by simpa using fun a b => hc ⟨a, .inl b⟩)]
  split
  · rename_i h1 h2; exact absurd ⟨h1, .inr (by simp [h2])⟩ hc
  · simp [hp]

/-- A release in soft stop ends a burst and stores nothing (R551; log 48). -/
theorem State.release_of_softStop {s : State} (hm : s.mode = .softStop) (hk : s.pendKey = false) :
    s.release = { s with chanBusy := false, burst := none } := by
  simp [State.release, hm, hk]

/-- In soft stop every move but a request of the TSE, a DMA access and the reset button leaves the registers, the PSW, the
keys, the interval timer and storage as they are (R551). -/
theorem softStop_keeps {s t : State} {m : Move} {r : List Move} (hm : s.mode = .softStop) (he : s.env = m :: r)
    (hq : ∀ w p, m = .request w p → codeBit w 0 = false) (hd : ∀ x, m ≠ .dma x) (hr : ∀ x, m ≠ .systemReset x)
    (h : step s = .next t) :
    t.mem = s.mem ∧ t.gr = s.gr ∧ t.fpr = s.fpr ∧ t.psw = s.psw ∧ t.keys = s.keys ∧ t.intimer = s.intimer := by
  rw [step_move (step_next h) he] at h
  cases m with
  | cpu => simp [Move.act, State.cpuCycle, hm] at h; simp [← h]
  | tick => simp only [Move.act, State.tick, hm] at h; cases h; split <;> simp
  | request w p => simp [Move.act, State.request, hm, hq w p rfl] at h; simp [← h]
  | busy b =>
    cases b <;> simp only [Move.act, State.unlessHung, State.release, hm] at h <;> cases h <;> simp
    split <;> simp
  | deviceWord w => simp [Move.act, State.unlessHung, hm] at h; simp [← h]
  | panel a d => simp [Move.act] at h; simp [← h]
  | dma x => exact absurd rfl (hd x)
  | parityError d => simp [Move.act, State.parityError, hm] at h; simp [← h, State.hang]
  | systemReset x => exact absurd rfl (hr x)

/-- An instruction is one, two or three halfwords long. -/
theorem instrLength_range (short : Bool) (op : Byte) : 1 ≤ instrLength short op ∧ instrLength short op ≤ 3 := by
  unfold instrLength; split_ifs <;> omega

theorem State.fetch_unavailable {s : State} (h : s.available s.psw.ia = false) : s.fetch = (.unavailable, s) := by
  simp [State.fetch, h]

theorem State.fetch_specification {s : State} {n : Nat} (hn : s.lengthOf (s.access.byte s.psw.ia) = n)
    (ha : s.available s.psw.ia = true) (h : s.psw.key ≠ 0#4 ∨ s.psw.ia.getLsbD 0 = true) :
    s.fetch = (.trap .specification n, s.access) := by
  subst hn
  unfold State.fetch
  simp only [ha, Bool.not_true]
  rw [if_neg (by simp), if_pos h]

theorem State.fetch_addressing {s : State} {n : Nat} (hn : s.lengthOf (s.access.byte s.psw.ia) = n)
    (ha : s.available s.psw.ia = true) (h : ¬(s.psw.key ≠ 0#4 ∨ s.psw.ia.getLsbD 0 = true))
    (hv : s.availableN s.psw.ia (2 * n) = false) : s.fetch = (.trap .addressing n, s.access) := by
  subst hn
  unfold State.fetch
  simp only [ha, Bool.not_true]
  rw [if_neg (by simp), if_neg h, if_pos (by simp [hv])]

theorem State.fetch_operation {s : State} {n : Nat} {e : DecodeError} (hn : s.lengthOf (s.access.byte s.psw.ia) = n)
    (ha : s.available s.psw.ia = true) (h : ¬(s.psw.key ≠ 0#4 ∨ s.psw.ia.getLsbD 0 = true))
    (hv : s.availableN s.psw.ia (2 * n) = true)
    (hd : decode s.params.opts (s.readHalves s.psw.ia n).1 = .error e) :
    s.fetch = (.trap .operation n, (s.readHalves s.psw.ia n).2) := by
  subst hn
  unfold State.fetch
  simp only [ha, Bool.not_true]
  rw [if_neg (by simp), if_neg h, if_neg (by simp [hv])]
  simp only [hd]

theorem State.fetch_instr {s : State} {n : Nat} {i : Instr} {rest : List Byte}
    (hn : s.lengthOf (s.access.byte s.psw.ia) = n) (ha : s.available s.psw.ia = true)
    (h : ¬(s.psw.key ≠ 0#4 ∨ s.psw.ia.getLsbD 0 = true)) (hv : s.availableN s.psw.ia (2 * n) = true)
    (hd : decode s.params.opts (s.readHalves s.psw.ia n).1 = .ok (i, rest))
    (hl : s.inLastFullword s.psw.ia n = false) : s.fetch = (.instr i n, (s.readHalves s.psw.ia n).2) := by
  subst hn
  unfold State.fetch
  simp only [ha, Bool.not_true]
  rw [if_neg (by simp), if_neg h, if_neg (by simp [hv])]
  simp only [hd, hl]
  rfl

/-- An operation code that no row selects on this installation does not decode. -/
theorem decode_unassigned {o : Options} {b : Byte} {bs : List Byte}
    (h : ∀ r ∈ opRows, r.op = b → r.need.met o = false) : ∃ e, decode o (b :: bs) = .error e := by
  have hs : ∃ e, opSelect o b = .error e := by
    unfold opSelect
    split
    · exact ⟨_, rfl⟩
    · rename_i r hr
      have hm : r ∈ opRows ∧ r.op = b := by
        revert hr
        generalize opRows = l
        induction l with
        | nil => simp [findRow]
        | cons c t ih =>
          simp only [findRow]
          split
          · intro h; cases h; simp_all
          · intro h; have := ih h; simp_all
      simp [h r hm.1 hm.2]
  obtain ⟨e, he⟩ := hs
  exact ⟨e, by simp [decode, he]⟩

end Sys2Proof.Machine
end

