-- ==== Sys2Proof/Tests/Slice0.lean ====
section
/-! SUPPORT.
Tests of the model. The words of the decode tests are written out from the formats (R101 to R106) and operation codes
(R120) of spec/30_encoding.md, ignored fields as ones; the expected results of the execution tests are those of
spec/95_test_vectors.md.
-/
namespace Sys2Proof.Tests
open Sys2Proof Sys2Proof.Machine

/-! ## Well-formedness: an ill-formed term for each check -/

/-- An odd register where a pair is named. -/
theorem test_wellFormed_refuses_odd_pair :
    [Instr.mr 1 0, .dr 3 0, .m 5 0 0 0, .d 7 0 0 0, .srdl 9 0 0, .sldl 11 0 0, .srda 13 0 0, .slda 15 0 0,
     .lcdr 1 0, .lcdr 0 1, .ldr 1 0, .ldr 0 1, .cdr 1 0, .cdr 0 1, .adr 1 0, .adr 0 1, .sdr 1 0, .sdr 0 1,
     .std 1 0 0 0, .ld 1 0 0 0, .cd 1 0 0 0, .ad 1 0 0 0, .sd 1 0 0 0].all (!·.wellFormed) = true := by decide

/-- A floating-point register number other than 0, 2, 4 and 6. -/
theorem test_wellFormed_refuses_float_register :
    [Instr.lper 1 0, .lper 0 8, .lner 3 0, .lner 0 10, .lter 5 0, .lter 0 12, .lcer 7 0, .lcer 0 14, .her 8 0, .her 0 1,
     .ler 9 0, .ler 0 3, .cer 10 0, .cer 0 5, .aer 11 0, .aer 0 7, .ser 12 0, .ser 0 9, .mer 13 0, .mer 0 11,
     .der 14 0, .der 0 13, .aur 15 0, .aur 0 15, .sur 1 0, .sur 0 1, .ste 8 0 0 0, .le 1 0 0 0, .ce 3 0 0 0,
     .ae 5 0 0 0, .se 7 0 0 0, .me 9 0 0 0, .de 10 0 0 0, .au 12 0 0 0, .su 14 0 0 0].all (!·.wellFormed) = true := by decide

/-- A function code above 3. -/
theorem test_wellFormed_refuses_timer_function :
    ((Instr.tmrs 4 0 0 0).wellFormed || (Instr.tmrs 15 0 0 0).wellFormed) = false := by decide

theorem test_wellFormed_admits :
    [Instr.mr 14 1, .aer 6 4, .tmrs 3 15 15 0xFFF#12, .lr 15 1].all (·.wellFormed) = true := by decide

/-! ## Decoding -/

/-- No two rows of the operation-code table overlap. -/
theorem test_opRows_distinct : (opRows.map (·.op.toNat)).Pairwise (· < ·) := by decide +kernel

theorem test_opRows_count : opRows.length = 171 := by decide +kernel

/-- An unassigned code, a code whose option is absent, an instruction cut short. -/
theorem test_decode_refuses :
    decode Options.all [0xFF#8, 0, 0, 0, 0, 0] = .error (.unassigned 0xFF#8) ∧
    decode { Options.all with short := false } [0xCA#8, 0x12#8, 0, 0, 0, 0] = .error (.optionAbsent 0xCA#8) ∧
    decode Options.all [0x58#8, 0x10#8, 0x00#8] = .error .truncated := ⟨rfl, rfl, rfl⟩

theorem test_decode_spm : decodeTableWord 16 0x046F = some (.spm 6) := by decide
theorem test_decode_balr : decodeTableWord 16 0x0564 = some (.balr 6 4) := by decide
theorem test_decode_bctr : decodeTableWord 16 0x0664 = some (.bctr 6 4) := by decide
theorem test_decode_bcr : decodeTableWord 16 0x07A4 = some (.bcr 10 4) := by decide
theorem test_decode_ssk : decodeTableWord 16 0x0864 = some (.ssk 6 4) := by decide
theorem test_decode_svc : decodeTableWord 16 0x0A2A = some (.svc 0x2a#8) := by decide
theorem test_decode_lfsr : decodeTableWord 16 0x0B64 = some (.lfsr 6 4) := by decide
theorem test_decode_lpr : decodeTableWord 16 0x1064 = some (.lpr 6 4) := by decide
theorem test_decode_lnr : decodeTableWord 16 0x1164 = some (.lnr 6 4) := by decide
theorem test_decode_ltr : decodeTableWord 16 0x1264 = some (.ltr 6 4) := by decide
theorem test_decode_lcr : decodeTableWord 16 0x1364 = some (.lcr 6 4) := by decide
theorem test_decode_nr : decodeTableWord 16 0x1464 = some (.nr 6 4) := by decide
theorem test_decode_clr : decodeTableWord 16 0x1564 = some (.clr 6 4) := by decide
theorem test_decode_or : decodeTableWord 16 0x1664 = some (.or 6 4) := by decide
theorem test_decode_xr : decodeTableWord 16 0x1764 = some (.xr 6 4) := by decide
theorem test_decode_lr : decodeTableWord 16 0x1864 = some (.lr 6 4) := by decide
theorem test_decode_cr : decodeTableWord 16 0x1964 = some (.cr 6 4) := by decide
theorem test_decode_ar : decodeTableWord 16 0x1A64 = some (.ar 6 4) := by decide
theorem test_decode_sr : decodeTableWord 16 0x1B64 = some (.sr 6 4) := by decide
theorem test_decode_mr : decodeTableWord 16 0x1C64 = some (.mr 6 4) := by decide
theorem test_decode_dr : decodeTableWord 16 0x1D64 = some (.dr 6 4) := by decide
theorem test_decode_alr : decodeTableWord 16 0x1E64 = some (.alr 6 4) := by decide
theorem test_decode_slr : decodeTableWord 16 0x1F64 = some (.slr 6 4) := by decide
theorem test_decode_lcdr : decodeTableWord 16 0x2364 = some (.lcdr 6 4) := by decide
theorem test_decode_ldr : decodeTableWord 16 0x2864 = some (.ldr 6 4) := by decide
theorem test_decode_cdr : decodeTableWord 16 0x2964 = some (.cdr 6 4) := by decide
theorem test_decode_adr : decodeTableWord 16 0x2A64 = some (.adr 6 4) := by decide
theorem test_decode_sdr : decodeTableWord 16 0x2B64 = some (.sdr 6 4) := by decide
theorem test_decode_lper : decodeTableWord 16 0x3064 = some (.lper 6 4) := by decide
theorem test_decode_lner : decodeTableWord 16 0x3164 = some (.lner 6 4) := by decide
theorem test_decode_lter : decodeTableWord 16 0x3264 = some (.lter 6 4) := by decide
theorem test_decode_lcer : decodeTableWord 16 0x3364 = some (.lcer 6 4) := by decide
theorem test_decode_her : decodeTableWord 16 0x3464 = some (.her 6 4) := by decide
theorem test_decode_ler : decodeTableWord 16 0x3864 = some (.ler 6 4) := by decide
theorem test_decode_cer : decodeTableWord 16 0x3964 = some (.cer 6 4) := by decide
theorem test_decode_aer : decodeTableWord 16 0x3A64 = some (.aer 6 4) := by decide
theorem test_decode_ser : decodeTableWord 16 0x3B64 = some (.ser 6 4) := by decide
theorem test_decode_mer : decodeTableWord 16 0x3C64 = some (.mer 6 4) := by decide
theorem test_decode_der : decodeTableWord 16 0x3D64 = some (.der 6 4) := by decide
theorem test_decode_aur : decodeTableWord 16 0x3E64 = some (.aur 6 4) := by decide
theorem test_decode_sur : decodeTableWord 16 0x3F64 = some (.sur 6 4) := by decide
theorem test_decode_sth : decodeTableWord 32 0x4069D1A5 = some (.sth 6 9 13 0x1a5#12) := by decide
theorem test_decode_la : decodeTableWord 32 0x4169D1A5 = some (.la 6 9 13 0x1a5#12) := by decide
theorem test_decode_stc : decodeTableWord 32 0x4269D1A5 = some (.stc 6 9 13 0x1a5#12) := by decide
theorem test_decode_ic : decodeTableWord 32 0x4369D1A5 = some (.ic 6 9 13 0x1a5#12) := by decide
theorem test_decode_ex : decodeTableWord 32 0x4469D1A5 = some (.ex 6 9 13 0x1a5#12) := by decide
theorem test_decode_bal : decodeTableWord 32 0x4569D1A5 = some (.bal 6 9 13 0x1a5#12) := by decide
theorem test_decode_bct : decodeTableWord 32 0x4669D1A5 = some (.bct 6 9 13 0x1a5#12) := by decide
theorem test_decode_bc : decodeTableWord 32 0x47A9D1A5 = some (.bc 10 9 13 0x1a5#12) := by decide
theorem test_decode_lh : decodeTableWord 32 0x4869D1A5 = some (.lh 6 9 13 0x1a5#12) := by decide
theorem test_decode_ch : decodeTableWord 32 0x4969D1A5 = some (.ch 6 9 13 0x1a5#12) := by decide
theorem test_decode_ah : decodeTableWord 32 0x4A69D1A5 = some (.ah 6 9 13 0x1a5#12) := by decide
theorem test_decode_sh : decodeTableWord 32 0x4B69D1A5 = some (.sh 6 9 13 0x1a5#12) := by decide
theorem test_decode_mh : decodeTableWord 32 0x4C69D1A5 = some (.mh 6 9 13 0x1a5#12) := by decide
theorem test_decode_ds : decodeTableWord 32 0x4D69D1A5 = some (.ds 6 9 13 0x1a5#12) := by decide
theorem test_decode_cvd : decodeTableWord 32 0x4E69D1A5 = some (.cvd 6 9 13 0x1a5#12) := by decide
theorem test_decode_cvb : decodeTableWord 32 0x4F69D1A5 = some (.cvb 6 9 13 0x1a5#12) := by decide
theorem test_decode_st : decodeTableWord 32 0x5069D1A5 = some (.st 6 9 13 0x1a5#12) := by decide
theorem test_decode_las : decodeTableWord 32 0x5169D1A5 = some (.las 6 9 13 0x1a5#12) := by decide
theorem test_decode_lts : decodeTableWord 32 0x5269D1A5 = some (.lts 6 9 13 0x1a5#12) := by decide
theorem test_decode_as : decodeTableWord 32 0x5369D1A5 = some (.as 6 9 13 0x1a5#12) := by decide
theorem test_decode_n : decodeTableWord 32 0x5469D1A5 = some (.n 6 9 13 0x1a5#12) := by decide
theorem test_decode_cl : decodeTableWord 32 0x5569D1A5 = some (.cl 6 9 13 0x1a5#12) := by decide
theorem test_decode_o : decodeTableWord 32 0x5669D1A5 = some (.o 6 9 13 0x1a5#12) := by decide
theorem test_decode_x : decodeTableWord 32 0x5769D1A5 = some (.x 6 9 13 0x1a5#12) := by decide
theorem test_decode_l : decodeTableWord 32 0x5869D1A5 = some (.l 6 9 13 0x1a5#12) := by decide
theorem test_decode_c : decodeTableWord 32 0x5969D1A5 = some (.c 6 9 13 0x1a5#12) := by decide
theorem test_decode_a : decodeTableWord 32 0x5A69D1A5 = some (.a 6 9 13 0x1a5#12) := by decide
theorem test_decode_s : decodeTableWord 32 0x5B69D1A5 = some (.s 6 9 13 0x1a5#12) := by decide
theorem test_decode_m : decodeTableWord 32 0x5C69D1A5 = some (.m 6 9 13 0x1a5#12) := by decide
theorem test_decode_d : decodeTableWord 32 0x5D69D1A5 = some (.d 6 9 13 0x1a5#12) := by decide
theorem test_decode_al : decodeTableWord 32 0x5E69D1A5 = some (.al 6 9 13 0x1a5#12) := by decide
theorem test_decode_sl : decodeTableWord 32 0x5F69D1A5 = some (.sl 6 9 13 0x1a5#12) := by decide
theorem test_decode_std : decodeTableWord 32 0x6069D1A5 = some (.std 6 9 13 0x1a5#12) := by decide
theorem test_decode_cs : decodeTableWord 32 0x6169D1A5 = some (.cs 6 9 13 0x1a5#12) := by decide
theorem test_decode_lt : decodeTableWord 32 0x6269D1A5 = some (.lt 6 9 13 0x1a5#12) := by decide
theorem test_decode_xs : decodeTableWord 32 0x6369D1A5 = some (.xs 6 9 13 0x1a5#12) := by decide
theorem test_decode_ns : decodeTableWord 32 0x6469D1A5 = some (.ns 6 9 13 0x1a5#12) := by decide
theorem test_decode_cls : decodeTableWord 32 0x6569D1A5 = some (.cls 6 9 13 0x1a5#12) := by decide
theorem test_decode_os : decodeTableWord 32 0x6669D1A5 = some (.os 6 9 13 0x1a5#12) := by decide
theorem test_decode_ld : decodeTableWord 32 0x6869D1A5 = some (.ld 6 9 13 0x1a5#12) := by decide
theorem test_decode_cd : decodeTableWord 32 0x6969D1A5 = some (.cd 6 9 13 0x1a5#12) := by decide
theorem test_decode_ad : decodeTableWord 32 0x6A69D1A5 = some (.ad 6 9 13 0x1a5#12) := by decide
theorem test_decode_sd : decodeTableWord 32 0x6B69D1A5 = some (.sd 6 9 13 0x1a5#12) := by decide
theorem test_decode_ste : decodeTableWord 32 0x7069D1A5 = some (.ste 6 9 13 0x1a5#12) := by decide
theorem test_decode_ms : decodeTableWord 32 0x7169D1A5 = some (.ms 6 9 13 0x1a5#12) := by decide
theorem test_decode_ss : decodeTableWord 32 0x7269D1A5 = some (.ss 6 9 13 0x1a5#12) := by decide
theorem test_decode_bu : decodeTableWord 32 0x73F9D1A5 = some (.bu 9 13 0x1a5#12) := by decide
theorem test_decode_ls : decodeTableWord 32 0x7469D1A5 = some (.ls 6 9 13 0x1a5#12) := by decide
theorem test_decode_tb : decodeTableWord 32 0x7569D1A5 = some (.tb 6 9 13 0x1a5#12) := by decide
theorem test_decode_le : decodeTableWord 32 0x7869D1A5 = some (.le 6 9 13 0x1a5#12) := by decide
theorem test_decode_ce : decodeTableWord 32 0x7969D1A5 = some (.ce 6 9 13 0x1a5#12) := by decide
theorem test_decode_ae : decodeTableWord 32 0x7A69D1A5 = some (.ae 6 9 13 0x1a5#12) := by decide
theorem test_decode_se : decodeTableWord 32 0x7B69D1A5 = some (.se 6 9 13 0x1a5#12) := by decide
theorem test_decode_me : decodeTableWord 32 0x7C69D1A5 = some (.me 6 9 13 0x1a5#12) := by decide
theorem test_decode_de : decodeTableWord 32 0x7D69D1A5 = some (.de 6 9 13 0x1a5#12) := by decide
theorem test_decode_au : decodeTableWord 32 0x7E69D1A5 = some (.au 6 9 13 0x1a5#12) := by decide
theorem test_decode_su : decodeTableWord 32 0x7F69D1A5 = some (.su 6 9 13 0x1a5#12) := by decide
theorem test_decode_ssm : decodeTableWord 32 0x80FFB2C7 = some (.ssm 11 0x2c7#12) := by decide
theorem test_decode_lpsw : decodeTableWord 32 0x82FFB2C7 = some (.lpsw 11 0x2c7#12) := by decide
theorem test_decode_diagnose : decodeTableWord 32 0x838EB2C7 = some (.diagnose 0x8e#8 11 0x2c7#12) := by decide
theorem test_decode_bxh : decodeTableWord 32 0x8669D1A5 = some (.bxh 6 9 13 0x1a5#12) := by decide
theorem test_decode_bxle : decodeTableWord 32 0x8769D1A5 = some (.bxle 6 9 13 0x1a5#12) := by decide
theorem test_decode_srl : decodeTableWord 32 0x886FD1A5 = some (.srl 6 13 0x1a5#12) := by decide
theorem test_decode_sll : decodeTableWord 32 0x896FD1A5 = some (.sll 6 13 0x1a5#12) := by decide
theorem test_decode_sra : decodeTableWord 32 0x8A6FD1A5 = some (.sra 6 13 0x1a5#12) := by decide
theorem test_decode_sla : decodeTableWord 32 0x8B6FD1A5 = some (.sla 6 13 0x1a5#12) := by decide
theorem test_decode_srdl : decodeTableWord 32 0x8C6FD1A5 = some (.srdl 6 13 0x1a5#12) := by decide
theorem test_decode_sldl : decodeTableWord 32 0x8D6FD1A5 = some (.sldl 6 13 0x1a5#12) := by decide
theorem test_decode_srda : decodeTableWord 32 0x8E6FD1A5 = some (.srda 6 13 0x1a5#12) := by decide
theorem test_decode_slda : decodeTableWord 32 0x8F6FD1A5 = some (.slda 6 13 0x1a5#12) := by decide
theorem test_decode_stm : decodeTableWord 32 0x9069D1A5 = some (.stm 6 9 13 0x1a5#12) := by decide
theorem test_decode_tm : decodeTableWord 32 0x918EB2C7 = some (.tm 0x8e#8 11 0x2c7#12) := by decide
theorem test_decode_mvi : decodeTableWord 32 0x928EB2C7 = some (.mvi 0x8e#8 11 0x2c7#12) := by decide
theorem test_decode_ts : decodeTableWord 32 0x93FFB2C7 = some (.ts 11 0x2c7#12) := by decide
theorem test_decode_ni : decodeTableWord 32 0x948EB2C7 = some (.ni 0x8e#8 11 0x2c7#12) := by decide
theorem test_decode_cli : decodeTableWord 32 0x958EB2C7 = some (.cli 0x8e#8 11 0x2c7#12) := by decide
theorem test_decode_oi : decodeTableWord 32 0x968EB2C7 = some (.oi 0x8e#8 11 0x2c7#12) := by decide
theorem test_decode_xi : decodeTableWord 32 0x978EB2C7 = some (.xi 0x8e#8 11 0x2c7#12) := by decide
theorem test_decode_lm : decodeTableWord 32 0x9869D1A5 = some (.lm 6 9 13 0x1a5#12) := by decide
theorem test_decode_srls : decodeTableWord 32 0xA06FD1A5 = some (.srls 6 13 0x1a5#12) := by decide
theorem test_decode_slls : decodeTableWord 32 0xA16FD1A5 = some (.slls 6 13 0x1a5#12) := by decide
theorem test_decode_sras : decodeTableWord 32 0xA26FD1A5 = some (.sras 6 13 0x1a5#12) := by decide
theorem test_decode_slas : decodeTableWord 32 0xA36FD1A5 = some (.slas 6 13 0x1a5#12) := by decide
theorem test_decode_tmrs : decodeTableWord 32 0xA439D1A5 = some (.tmrs 3 9 13 0x1a5#12) := by decide
theorem test_decode_sio : decodeTableWord 32 0xA569D1A5 = some (.sio 6 9 13 0x1a5#12) := by decide
theorem test_decode_osi : decodeTableWord 32 0xA66F93C5 = some (.osi 6 0x93c5#16) := by decide
theorem test_decode_xsi : decodeTableWord 32 0xA76F93C5 = some (.xsi 6 0x93c5#16) := by decide
theorem test_decode_lsi : decodeTableWord 32 0xA86F93C5 = some (.lsi 6 0x93c5#16) := by decide
theorem test_decode_csi : decodeTableWord 32 0xA96F93C5 = some (.csi 6 0x93c5#16) := by decide
theorem test_decode_asi : decodeTableWord 32 0xAA6F93C5 = some (.asi 6 0x93c5#16) := by decide
theorem test_decode_ssi : decodeTableWord 32 0xAB6F93C5 = some (.ssi 6 0x93c5#16) := by decide
theorem test_decode_tbi : decodeTableWord 32 0xAE6F93C5 = some (.tbi 6 0x93c5#16) := by decide
theorem test_decode_dsi : decodeTableWord 32 0xB06F93C5 = some (.dsi 6 0x93c5#16) := by decide
theorem test_decode_msi : decodeTableWord 32 0xB36F93C5 = some (.msi 6 0x93c5#16) := by decide
theorem test_decode_nsi : decodeTableWord 32 0xB46F93C5 = some (.nsi 6 0x93c5#16) := by decide
theorem test_decode_clsi : decodeTableWord 32 0xB56F93C5 = some (.clsi 6 0x93c5#16) := by decide
theorem test_decode_lhi : decodeTableWord 32 0xB86F93C5 = some (.lhi 6 0x93c5#16) := by decide
theorem test_decode_chi : decodeTableWord 32 0xB96F93C5 = some (.chi 6 0x93c5#16) := by decide
theorem test_decode_ahi : decodeTableWord 32 0xBA6F93C5 = some (.ahi 6 0x93c5#16) := by decide
theorem test_decode_shi : decodeTableWord 32 0xBB6F93C5 = some (.shi 6 0x93c5#16) := by decide
theorem test_decode_mhi : decodeTableWord 32 0xBC6F93C5 = some (.mhi 6 0x93c5#16) := by decide
theorem test_decode_lpsr : decodeTableWord 16 0xC064 = some (.lpsr 6 4) := by decide
theorem test_decode_lnsr : decodeTableWord 16 0xC164 = some (.lnsr 6 4) := by decide
theorem test_decode_ltsr : decodeTableWord 16 0xC264 = some (.ltsr 6 4) := by decide
theorem test_decode_lcsr : decodeTableWord 16 0xC364 = some (.lcsr 6 4) := by decide
theorem test_decode_nsr : decodeTableWord 16 0xC464 = some (.nsr 6 4) := by decide
theorem test_decode_clsr : decodeTableWord 16 0xC564 = some (.clsr 6 4) := by decide
theorem test_decode_osr : decodeTableWord 16 0xC664 = some (.osr 6 4) := by decide
theorem test_decode_xsr : decodeTableWord 16 0xC764 = some (.xsr 6 4) := by decide
theorem test_decode_lsr : decodeTableWord 16 0xC864 = some (.lsr 6 4) := by decide
theorem test_decode_csr : decodeTableWord 16 0xC964 = some (.csr 6 4) := by decide
theorem test_decode_asr : decodeTableWord 16 0xCA64 = some (.asr 6 4) := by decide
theorem test_decode_ssr : decodeTableWord 16 0xCB64 = some (.ssr 6 4) := by decide
theorem test_decode_msr : decodeTableWord 16 0xCC64 = some (.msr 6 4) := by decide
theorem test_decode_dsr : decodeTableWord 16 0xCD64 = some (.dsr 6 4) := by decide
theorem test_decode_bur : decodeTableWord 16 0xCEF4 = some (.bur 4) := by decide
theorem test_decode_nrm : decodeTableWord 16 0xCF64 = some (.nrm 6 4) := by decide
theorem test_decode_lhr : decodeTableWord 16 0xD064 = some (.lhr 6 4) := by decide
theorem test_decode_mvn : decodeTableWord 48 0xD13EB2C7D1A5 = some (.mvn 0x3e#8 11 0x2c7#12 13 0x1a5#12) := by decide
theorem test_decode_mvc : decodeTableWord 48 0xD23EB2C7D1A5 = some (.mvc 0x3e#8 11 0x2c7#12 13 0x1a5#12) := by decide
theorem test_decode_mvz : decodeTableWord 48 0xD33EB2C7D1A5 = some (.mvz 0x3e#8 11 0x2c7#12 13 0x1a5#12) := by decide
theorem test_decode_nc : decodeTableWord 48 0xD43EB2C7D1A5 = some (.nc 0x3e#8 11 0x2c7#12 13 0x1a5#12) := by decide
theorem test_decode_clc : decodeTableWord 48 0xD53EB2C7D1A5 = some (.clc 0x3e#8 11 0x2c7#12 13 0x1a5#12) := by decide
theorem test_decode_oc : decodeTableWord 48 0xD63EB2C7D1A5 = some (.oc 0x3e#8 11 0x2c7#12 13 0x1a5#12) := by decide
theorem test_decode_xc : decodeTableWord 48 0xD73EB2C7D1A5 = some (.xc 0x3e#8 11 0x2c7#12 13 0x1a5#12) := by decide
theorem test_decode_tr : decodeTableWord 48 0xDC3EB2C7D1A5 = some (.tr 0x3e#8 11 0x2c7#12 13 0x1a5#12) := by decide
theorem test_decode_trt : decodeTableWord 48 0xDD3EB2C7D1A5 = some (.trt 0x3e#8 11 0x2c7#12 13 0x1a5#12) := by decide
theorem test_decode_mvo : decodeTableWord 48 0xF15CB2C7D1A5 = some (.mvo 5 12 11 0x2c7#12 13 0x1a5#12) := by decide
theorem test_decode_pack : decodeTableWord 48 0xF25CB2C7D1A5 = some (.pack 5 12 11 0x2c7#12 13 0x1a5#12) := by decide
theorem test_decode_unpk : decodeTableWord 48 0xF35CB2C7D1A5 = some (.unpk 5 12 11 0x2c7#12 13 0x1a5#12) := by decide

/-! ## One step -/

/-- A machine about to fetch at 0x1000. -/
def cpu : State := { State.reset with mode := .operating, psw := { Psw.zero with ia := 0x1000 } }

/-- The instruction, placed at 0x1000, is run and leaves a state with the property. -/
def runs (code : List Byte) (s : State) (p : State → Bool) : Bool :=
  match step (s.setBytes 0x1000 code) with
  | .next t => p t
  | _ => false

/-- The image of an instruction placed after reset runs as the next step (log 13). -/
theorem test_withFetchWord :
    (match step (State.reset.withFetchWord 32 0x41600123) with | .next t => t.reg 6 | _ => 0) = 0x123#32 := by decide

theorem test_exec_spm : runs [0x04#8, 0x30#8]
    (({ cpu with psw := { cpu.psw with pm := 0xF, cc := 0x2 } } : State) |>.setReg 3 0xC0FFFFFF#32)
    (fun t => t.psw.cc == 0 && t.psw.pm == 0x0) = true := by decide
theorem test_exec_balr : runs [0x05#8, 0xEE#8]
    (({ cpu with psw := { cpu.psw with cc := 0x1 } } : State) |>.setReg 14 0x3000#32)
    (fun t => t.psw.ia == 0x3000#20 && t.reg 14 == 0x50001002#32) = true := by decide
theorem test_exec_bctr : runs [0x06#8, 0x34#8] (cpu |>.setReg 3 0x2#32 |>.setReg 4 0x2000#32)
    (fun t => t.reg 3 == 0x1#32 && t.psw.ia == 0x2000#20) = true := by decide
theorem test_exec_bcr : runs [0x07#8, 0xFE#8] (cpu |>.setReg 14 0xFFF12346#32)
    (fun t => t.psw.ia == 0x12346#20) = true := by decide
theorem test_exec_ssk : runs [0x08#8, 0x12#8] (cpu |>.setReg 1 0x2#32 |>.setReg 2 0xC00#32)
    (fun t => t.key 3 == 2) = true := by decide
theorem test_exec_lfsr : runs [0x0B#8, 0x12#8] (cpu |>.setReg 2 0x12345#32 |>.setReg 1 0x0#32)
    (fun t => t.reg 1 == 0x2345#32 && t.psw.cc == 3) = true := by decide
theorem test_exec_lpr : runs [0x10#8, 0x33#8] (cpu |>.setReg 3 0xFFFFFFFE#32)
    (fun t => t.reg 3 == 0x2#32 && t.psw.cc == 2) = true := by decide
theorem test_exec_lnr : runs [0x11#8, 0x56#8] (cpu |>.setReg 6 0x1#32)
    (fun t => t.reg 5 == 0xFFFFFFFF#32 && t.psw.cc == 1) = true := by decide
theorem test_exec_ltr : runs [0x12#8, 0x44#8] (cpu |>.setReg 4 0x80000000#32)
    (fun t => t.psw.cc == 1) = true := by decide
theorem test_exec_lcr : runs [0x13#8, 0x12#8] (cpu |>.setReg 2 0x5#32)
    (fun t => t.reg 1 == 0xFFFFFFFB#32 && t.psw.cc == 1) = true := by decide
theorem test_exec_nr : runs [0x14#8, 0x12#8] (cpu |>.setReg 1 0xFF00FF00#32 |>.setReg 2 0x0FF00FF0#32)
    (fun t => t.reg 1 == 0x0F000F00#32 && t.psw.cc == 1) = true := by decide
theorem test_exec_clr : runs [0x15#8, 0x34#8] (cpu |>.setReg 3 0xFFFFFFFF#32 |>.setReg 4 0x1#32)
    (fun t => t.psw.cc == 2) = true := by decide
theorem test_exec_or : runs [0x16#8, 0x00#8] (cpu |>.setReg 0 0x0#32)
    (fun t => t.psw.cc == 0) = true := by decide
theorem test_exec_xr : runs [0x17#8, 0x77#8] (cpu |>.setReg 7 0x123#32)
    (fun t => t.reg 7 == 0x0#32 && t.psw.cc == 0) = true := by decide
theorem test_exec_lr : runs [0x18#8, 0x37#8] (cpu |>.setReg 3 0x0000ABCD#32 |>.setReg 7 0xFFFF0001#32)
    (fun t => t.reg 3 == 0xFFFF0001#32) = true := by decide
theorem test_exec_cr : runs [0x19#8, 0x34#8] (cpu |>.setReg 3 0xFFFFFFFF#32 |>.setReg 4 0x1#32)
    (fun t => t.psw.cc == 1) = true := by decide
theorem test_exec_ar : runs [0x1A#8, 0x79#8] (cpu |>.setReg 7 0x7FFFFFFF#32 |>.setReg 9 0x1#32)
    (fun t => t.reg 7 == 0x80000000#32 && t.psw.cc == 3) = true := by decide
theorem test_exec_sr : runs [0x1B#8, 0x12#8] (cpu |>.setReg 1 0xFFFFFFFF#32 |>.setReg 2 0x80000000#32)
    (fun t => t.reg 1 == 0x7FFFFFFF#32 && t.psw.cc == 2) = true := by decide
theorem test_exec_mr : runs [0x1C#8, 0x46#8] (cpu |>.setReg 5 0x3#32 |>.setReg 6 0xFFFFFFFE#32)
    (fun t => t.reg 4 == 0xFFFFFFFF#32 && t.reg 5 == 0xFFFFFFFA#32) = true := by decide
theorem test_exec_dr : runs [0x1D#8, 0x47#8]
    (cpu |>.setReg 4 0xFFFFFFFF#32 |>.setReg 5 0xFFFFFFF9#32 |>.setReg 7 0x2#32)
    (fun t => t.reg 4 == 0xFFFFFFFF#32 && t.reg 5 == 0xFFFFFFFD#32) = true := by decide
theorem test_exec_alr : runs [0x1E#8, 0x12#8] (cpu |>.setReg 1 0xFFFFFFFF#32 |>.setReg 2 0x1#32)
    (fun t => t.reg 1 == 0x0#32 && t.psw.cc == 2) = true := by decide
theorem test_exec_slr : runs [0x1F#8, 0x12#8] (cpu |>.setReg 1 0x1#32 |>.setReg 2 0x2#32)
    (fun t => t.reg 1 == 0xFFFFFFFF#32 && t.psw.cc == 1) = true := by decide
theorem test_exec_lcdr : runs [0x23#8, 0x22#8] (cpu |>.setReg 2 0x0#32 |>.setReg 3 0x1#32)
    (fun t => t.reg 2 == 0xFFFFFFFF#32 && t.reg 3 == 0xFFFFFFFF#32 && t.psw.cc == 1) = true := by decide
theorem test_exec_ldr : runs [0x28#8, 0x24#8] (cpu |>.setReg 4 0x01234567#32 |>.setReg 5 0x89ABCDEF#32)
    (fun t => t.reg 2 == 0x01234567#32 && t.reg 3 == 0x89ABCDEF#32) = true := by decide
theorem test_exec_cdr : runs [0x29#8, 0x24#8] (cpu |>.setReg 2 0xFFFFFFFF#32 |>.setReg 3 0xFFFFFFFF#32)
    (fun t => t.psw.cc == 1) = true := by decide
theorem test_exec_adr : runs [0x2A#8, 0x46#8]
    (cpu |>.setReg 4 0x0#32 |>.setReg 5 0xFFFFFFFF#32 |>.setReg 6 0x0#32 |>.setReg 7 0x1#32)
    (fun t => t.reg 4 == 0x1#32 && t.reg 5 == 0x0#32 && t.psw.cc == 2) = true := by decide
theorem test_exec_sdr : runs [0x2B#8, 0x24#8]
    (cpu |>.setReg 2 0xFFFFFFFF#32 |>.setReg 3 0xFFFFFFFF#32 |>.setReg 4 0x80000000#32)
    (fun t => t.reg 2 == 0x7FFFFFFF#32 && t.reg 3 == 0xFFFFFFFF#32 && t.psw.cc == 2) = true := by decide
theorem test_exec_lper : runs [0x30#8, 0x46#8] (cpu |>.setFp 6 0xC1234567#32)
    (fun t => t.fp 4 == 0x41234567#32 && t.psw.cc == 2) = true := by decide
theorem test_exec_lner : runs [0x31#8, 0x00#8] (cpu |>.setFp 0 0x0#32)
    (fun t => t.fp 0 == 0x80000000#32 && t.psw.cc == 0) = true := by decide
theorem test_exec_lter : runs [0x32#8, 0x22#8] (cpu |>.setFp 2 0xC2000000#32)
    (fun t => t.psw.cc == 0) = true := by decide
theorem test_exec_lcer : runs [0x33#8, 0x02#8] (cpu |>.setFp 2 0x41100000#32)
    (fun t => t.fp 0 == 0xC1100000#32 && t.psw.cc == 1) = true := by decide
theorem test_exec_her : runs [0x34#8, 0x02#8] (cpu |>.setFp 2 0x41100000#32)
    (fun t => t.fp 0 == 0x40800000#32) = true := by decide
theorem test_exec_ler : runs [0x38#8, 0x24#8] (cpu |>.setFp 4 0xC1100000#32)
    (fun t => t.fp 2 == 0xC1100000#32) = true := by decide
theorem test_exec_cer : runs [0x39#8, 0x02#8] (cpu |>.setFp 0 0x41100000#32 |>.setFp 2 0x42010000#32)
    (fun t => t.psw.cc == 0) = true := by decide
theorem test_exec_aer : runs [0x3A#8, 0x02#8] (cpu |>.setFp 0 0x41100000#32 |>.setFp 2 0x41200000#32)
    (fun t => t.fp 0 == 0x41300000#32 && t.psw.cc == 2) = true := by decide
theorem test_exec_ser : runs [0x3B#8, 0x02#8] (cpu |>.setFp 0 0x41100000#32 |>.setFp 2 0x40FFFFFF#32)
    (fun t => t.fp 0 == 0x3B100000#32 && t.psw.cc == 2) = true := by decide
theorem test_exec_mer : runs [0x3C#8, 0x02#8] (cpu |>.setFp 0 0x41200000#32 |>.setFp 2 0x41300000#32)
    (fun t => t.fp 0 == 0x41600000#32) = true := by decide
theorem test_exec_der : runs [0x3D#8, 0x02#8] (cpu |>.setFp 0 0x41600000#32 |>.setFp 2 0x41200000#32)
    (fun t => t.fp 0 == 0x41300000#32) = true := by decide
theorem test_exec_aur : runs [0x3E#8, 0x02#8] (cpu |>.setFp 0 0x43000001#32 |>.setFp 2 0x41000100#32)
    (fun t => t.fp 0 == 0x43000002#32 && t.psw.cc == 2) = true := by decide
theorem test_exec_sur : runs [0x3F#8, 0x02#8] (cpu |>.setFp 0 0x41300000#32 |>.setFp 2 0x41200000#32)
    (fun t => t.fp 0 == 0x41100000#32 && t.psw.cc == 2) = true := by decide
theorem test_exec_sth : runs [0x40#8, 0x50#8, 0x0E#8, 0x02#8] (cpu |>.setReg 5 0x1234ABCD#32)
    (fun t => t.bytes 0xE02 2 == [0xAB#8, 0xCD#8]) = true := by decide
theorem test_exec_la : runs [0x41#8, 0x23#8, 0x40#8, 0x10#8] (cpu |>.setReg 3 0x00100000#32 |>.setReg 4 0x00F00000#32)
    (fun t => t.reg 2 == 0x10#32) = true := by decide
theorem test_exec_stc : runs [0x42#8, 0x10#8, 0x06#8, 0x02#8] (cpu |>.setReg 1 0x123456AB#32)
    (fun t => t.bytes 0x602 1 == [0xAB#8]) = true := by decide
theorem test_exec_ic : runs [0x43#8, 0x10#8, 0x06#8, 0x01#8]
    (cpu |>.setBytes 0x601 [0x7E#8] |>.setReg 1 0xFFFFFF00#32)
    (fun t => t.reg 1 == 0xFFFFFF7E#32) = true := by decide
theorem test_exec_ex : runs [0x44#8, 0x00#8, 0x05#8, 0x00#8] (cpu |>.setBytes 0x500 [0x0A#8, 0x09#8])
    (fun t => t.bytes 0x20 8 == [0x00#8, 0x00#8, 0x00#8, 0x09#8, 0x80#8, 0x00#8, 0x10#8, 0x04#8] && t.ilc == 2 &&
      t.psw.ia == 0x0#20 && t.key 0 == 1) = true := by decide
theorem test_exec_bct : runs [0x46#8, 0x50#8, 0x01#8, 0x00#8] (cpu |>.setReg 5 0x0#32)
    (fun t => t.reg 5 == 0xFFFFFFFF#32 && t.psw.ia == 0x100#20) = true := by decide
theorem test_exec_bc : runs [0x47#8, 0x80#8, 0x02#8, 0x00#8] { cpu with psw := { cpu.psw with cc := 0x0 } }
    (fun t => t.psw.ia == 0x200#20) = true := by decide
theorem test_exec_lh : runs [0x48#8, 0x50#8, 0x01#8, 0x00#8] (cpu |>.setBytes 0x100 [0x80#8, 0x01#8])
    (fun t => t.reg 5 == 0xFFFF8001#32) = true := by decide
theorem test_exec_ch : runs [0x49#8, 0x10#8, 0x08#8, 0x02#8]
    (cpu |>.setBytes 0x802 [0xFF#8, 0xFF#8] |>.setReg 1 0xFFFFFFFF#32)
    (fun t => t.psw.cc == 0) = true := by decide
theorem test_exec_ah : runs [0x4A#8, 0x20#8, 0x03#8, 0x02#8]
    (cpu |>.setBytes 0x302 [0xFF#8, 0xFE#8] |>.setReg 2 0x5#32)
    (fun t => t.reg 2 == 0x3#32 && t.psw.cc == 2) = true := by decide
theorem test_exec_sh : runs [0x4B#8, 0x10#8, 0x06#8, 0x00#8]
    (cpu |>.setBytes 0x600 [0x00#8, 0x01#8] |>.setReg 1 0x0#32)
    (fun t => t.reg 1 == 0xFFFFFFFF#32 && t.psw.cc == 1) = true := by decide
theorem test_exec_mh : runs [0x4C#8, 0x10#8, 0x0A#8, 0x00#8]
    (cpu |>.setBytes 0xA00 [0xFF#8, 0xFF#8] |>.setReg 1 0x7#32)
    (fun t => t.reg 1 == 0xFFFFFFF9#32) = true := by decide
theorem test_exec_ds : runs [0x4D#8, 0x20#8, 0x04#8, 0x00#8]
    (cpu |>.setBytes 0x400 [0x00#8, 0x03#8] |>.setReg 2 0x64#32)
    (fun t => t.reg 2 == 0x21#32) = true := by decide
theorem test_exec_cvd : runs [0x4E#8, 0x10#8, 0x0D#8, 0x00#8]
    (({ cpu with psw := { cpu.psw with a := true } } : State) |>.setReg 1 0x19#32)
    (fun t => t.bytes 0xD00 8 == [0x00#8, 0x00#8, 0x00#8, 0x00#8, 0x00#8, 0x00#8, 0x02#8, 0x5A#8]) = true := by decide
theorem test_exec_cvb : runs [0x4F#8, 0x70#8, 0x0C#8, 0x00#8]
    (cpu |>.setBytes 0xC00 [0x00#8, 0x00#8, 0x00#8, 0x00#8, 0x00#8, 0x00#8, 0x02#8, 0x5D#8])
    (fun t => t.reg 7 == 0xFFFFFFE7#32) = true := by decide
theorem test_exec_st : runs [0x50#8, 0x3A#8, 0xE1#8, 0x2C#8]
    (cpu |>.setReg 3 0x89ABCDEF#32 |>.setReg 14 0x300#32 |>.setReg 10 0x1000#32)
    (fun t => t.bytes 0x142C 4 == [0x89#8, 0xAB#8, 0xCD#8, 0xEF#8]) = true := by decide
theorem test_exec_las : runs [0x51#8, 0xA0#8, 0xA0#8, 0x04#8] (cpu |>.setReg 10 0x1234FFFE#32)
    (fun t => t.reg 10 == 0x12340002#32) = true := by decide
theorem test_exec_lts : runs [0x52#8, 0x10#8, 0x03#8, 0x02#8]
    (cpu |>.setBytes 0x302 [0x00#8, 0x00#8] |>.setReg 1 0xFFFFFFFF#32)
    (fun t => t.reg 1 == 0xFFFF0000#32 && t.psw.cc == 0) = true := by decide
theorem test_exec_as : runs [0x53#8, 0x40#8, 0x02#8, 0x00#8]
    (cpu |>.setBytes 0x200 [0x7F#8, 0xFF#8] |>.setReg 4 0x12340001#32)
    (fun t => t.reg 4 == 0x12348000#32 && t.psw.cc == 3) = true := by decide
theorem test_exec_n : runs [0x54#8, 0x10#8, 0x04#8, 0x00#8]
    (cpu |>.setBytes 0x400 [0x00#8, 0x00#8, 0xFF#8, 0xFF#8] |>.setReg 1 0x12345678#32)
    (fun t => t.reg 1 == 0x5678#32 && t.psw.cc == 1) = true := by decide
theorem test_exec_cl : runs [0x55#8, 0x10#8, 0x01#8, 0x00#8]
    (cpu |>.setBytes 0x100 [0x80#8, 0x00#8, 0x00#8, 0x00#8] |>.setReg 1 0x7FFFFFFF#32)
    (fun t => t.psw.cc == 1) = true := by decide
theorem test_exec_o : runs [0x56#8, 0x20#8, 0x04#8, 0x04#8]
    (cpu |>.setBytes 0x404 [0x80#8, 0x00#8, 0x00#8, 0x00#8] |>.setReg 2 0x1#32)
    (fun t => t.reg 2 == 0x80000001#32 && t.psw.cc == 1) = true := by decide
theorem test_exec_x : runs [0x57#8, 0x30#8, 0x04#8, 0x08#8]
    (cpu |>.setBytes 0x408 [0xFF#8, 0xFF#8, 0xFF#8, 0xFF#8] |>.setReg 3 0x0F0F0F0F#32)
    (fun t => t.reg 3 == 0xF0F0F0F0#32 && t.psw.cc == 1) = true := by decide
theorem test_exec_l : runs [0x58#8, 0x30#8, 0xC0#8, 0x10#8]
    (cpu |>.setReg 12 0x1000#32 |>.setBytes 0x1010 [0x12#8, 0x34#8, 0x56#8, 0x78#8])
    (fun t => t.reg 3 == 0x12345678#32) = true := by decide
theorem test_exec_c : runs [0x59#8, 0x10#8, 0x08#8, 0x00#8]
    (cpu |>.setBytes 0x800 [0x00#8, 0x00#8, 0x00#8, 0x00#8] |>.setReg 1 0x1#32)
    (fun t => t.psw.cc == 2) = true := by decide
theorem test_exec_a : runs [0x5A#8, 0x10#8, 0xB0#8, 0x04#8]
    (cpu |>.setReg 11 0x2000#32 |>.setBytes 0x2004 [0xFF#8, 0xFF#8, 0xFF#8, 0xFF#8] |>.setReg 1 0x1#32)
    (fun t => t.reg 1 == 0x0#32 && t.psw.cc == 0) = true := by decide
theorem test_exec_s : runs [0x5B#8, 0x40#8, 0xA0#8, 0x00#8]
    (cpu |>.setReg 10 0x500#32 |>.setBytes 0x500 [0x00#8, 0x00#8, 0x00#8, 0x01#8] |>.setReg 4 0x80000000#32)
    (fun t => t.reg 4 == 0x7FFFFFFF#32 && t.psw.cc == 3) = true := by decide
theorem test_exec_m : runs [0x5C#8, 0x20#8, 0x09#8, 0x00#8]
    (cpu |>.setBytes 0x900 [0x00#8, 0x01#8, 0x00#8, 0x00#8] |>.setReg 3 0x10000#32)
    (fun t => t.reg 2 == 0x1#32 && t.reg 3 == 0x0#32) = true := by decide
theorem test_exec_d : runs [0x5D#8, 0x20#8, 0x0B#8, 0x00#8]
    (({ cpu with psw := { cpu.psw with sm := 0x01 } } : State) |>.setReg 2 0x1#32 |>.setReg 3 0x2#32)
    (fun t => t.half 42 == 9 && t.dword 40 == 0x0100000980001004#64) = true := by decide
theorem test_exec_al : runs [0x5E#8, 0x30#8, 0x04#8, 0x00#8]
    (cpu |>.setBytes 0x400 [0x80#8, 0x00#8, 0x00#8, 0x00#8] |>.setReg 3 0x80000001#32)
    (fun t => t.reg 3 == 0x1#32 && t.psw.cc == 3) = true := by decide
theorem test_exec_sl : runs [0x5F#8, 0x20#8, 0x07#8, 0x00#8]
    (cpu |>.setBytes 0x700 [0x00#8, 0x00#8, 0x00#8, 0x05#8] |>.setReg 2 0x5#32)
    (fun t => t.reg 2 == 0x0#32 && t.psw.cc == 2) = true := by decide
theorem test_exec_std : runs [0x60#8, 0x60#8, 0x05#8, 0x04#8]
    (cpu |>.setReg 6 0x11223344#32 |>.setReg 7 0x55667788#32)
    (fun t => t.bytes 0x504 8 == [0x11#8, 0x22#8, 0x33#8, 0x44#8, 0x55#8, 0x66#8, 0x77#8, 0x88#8]) = true := by decide
theorem test_exec_cs : runs [0x61#8, 0x10#8, 0x03#8, 0x00#8]
    (cpu |>.setBytes 0x300 [0x00#8, 0x01#8] |>.setReg 1 0xFFFF#32)
    (fun t => t.psw.cc == 1) = true := by decide
theorem test_exec_lt : runs [0x62#8, 0x10#8, 0x03#8, 0x00#8] (cpu |>.setBytes 0x300 [0x80#8, 0x00#8, 0x00#8, 0x00#8])
    (fun t => t.reg 1 == 0x80000000#32 && t.psw.cc == 1) = true := by decide
theorem test_exec_xs : runs [0x63#8, 0x10#8, 0x03#8, 0x00#8]
    (cpu |>.setBytes 0x300 [0xFF#8, 0xFF#8] |>.setReg 1 0xFF#32)
    (fun t => t.reg 1 == 0xFF00#32 && t.psw.cc == 1) = true := by decide
theorem test_exec_ns : runs [0x64#8, 0x10#8, 0x03#8, 0x00#8]
    (cpu |>.setBytes 0x300 [0x0F#8, 0x0F#8] |>.setReg 1 0xAAAA00FF#32)
    (fun t => t.reg 1 == 0xAAAA000F#32 && t.psw.cc == 1) = true := by decide
theorem test_exec_cls : runs [0x65#8, 0x10#8, 0x03#8, 0x00#8]
    (cpu |>.setBytes 0x300 [0x00#8, 0x01#8] |>.setReg 1 0xFFFF#32)
    (fun t => t.psw.cc == 2) = true := by decide
theorem test_exec_os : runs [0x66#8, 0x10#8, 0x03#8, 0x00#8]
    (cpu |>.setBytes 0x300 [0x80#8, 0x00#8] |>.setReg 1 0x1#32)
    (fun t => t.reg 1 == 0x8001#32 && t.psw.cc == 1) = true := by decide
theorem test_exec_ld : runs [0x68#8, 0x60#8, 0x01#8, 0x04#8]
    (cpu |>.setBytes 0x104 [0x00#8, 0x00#8, 0x00#8, 0x01#8, 0xFF#8, 0xFF#8, 0xFF#8, 0xFE#8])
    (fun t => t.reg 6 == 0x1#32 && t.reg 7 == 0xFFFFFFFE#32) = true := by decide
theorem test_exec_cd : runs [0x69#8, 0x20#8, 0x04#8, 0x00#8]
    (cpu |>.setBytes 0x400 [0x00#8, 0x00#8, 0x00#8, 0x00#8, 0x00#8, 0x00#8, 0x00#8, 0x05#8] |>.setReg 2 0x0#32
      |>.setReg 3 0x6#32)
    (fun t => t.psw.cc == 2) = true := by decide
theorem test_exec_ad : runs [0x6A#8, 0x20#8, 0x02#8, 0x00#8]
    (cpu |>.setBytes 0x200 [0x00#8, 0x00#8, 0x00#8, 0x00#8, 0x00#8, 0x00#8, 0x00#8, 0x01#8]
      |>.setReg 2 0x7FFFFFFF#32 |>.setReg 3 0xFFFFFFFF#32)
    (fun t => t.reg 2 == 0x80000000#32 && t.reg 3 == 0x0#32 && t.psw.cc == 3) = true := by decide
theorem test_exec_sd : runs [0x6B#8, 0x40#8, 0x03#8, 0x00#8]
    (cpu |>.setBytes 0x300 [0x00#8, 0x00#8, 0x00#8, 0x00#8, 0x00#8, 0x00#8, 0x00#8, 0x01#8] |>.setReg 4 0x1#32
      |>.setReg 5 0x0#32)
    (fun t => t.reg 4 == 0x0#32 && t.reg 5 == 0xFFFFFFFF#32 && t.psw.cc == 2) = true := by decide
theorem test_exec_ste : runs [0x70#8, 0x40#8, 0x02#8, 0x04#8] (cpu |>.setFp 4 0x41300000#32)
    (fun t => t.bytes 0x204 4 == [0x41#8, 0x30#8, 0x00#8, 0x00#8]) = true := by decide
theorem test_exec_ms : runs [0x71#8, 0x20#8, 0x03#8, 0x00#8]
    (cpu |>.setBytes 0x300 [0x80#8, 0x00#8] |>.setReg 2 0xABCD8000#32)
    (fun t => t.reg 2 == 0x40000000#32) = true := by decide
theorem test_exec_ss : runs [0x72#8, 0x10#8, 0x03#8, 0x00#8]
    (cpu |>.setBytes 0x300 [0x80#8, 0x00#8] |>.setReg 1 0x8000#32)
    (fun t => t.reg 1 == 0x0#32 && t.psw.cc == 0) = true := by decide
theorem test_exec_bu : runs [0x73#8, 0x00#8, 0xC0#8, 0x10#8] (cpu |>.setReg 12 0x2000#32)
    (fun t => t.psw.ia == 0x2010#20) = true := by decide
theorem test_exec_ls : runs [0x74#8, 0x10#8, 0x03#8, 0x00#8]
    (cpu |>.setBytes 0x300 [0x80#8, 0x01#8] |>.setReg 1 0x12345678#32)
    (fun t => t.reg 1 == 0x12348001#32) = true := by decide
theorem test_exec_tb : runs [0x75#8, 0x10#8, 0x03#8, 0x00#8]
    (cpu |>.setBytes 0x300 [0x00#8, 0xF0#8] |>.setReg 1 0xF5#32)
    (fun t => t.psw.cc == 3) = true := by decide
theorem test_exec_le : runs [0x78#8, 0x20#8, 0x01#8, 0x00#8] (cpu |>.setBytes 0x100 [0x41#8, 0x10#8, 0x00#8, 0x00#8])
    (fun t => t.fp 2 == 0x41100000#32) = true := by decide
theorem test_exec_ce : runs [0x79#8, 0x20#8, 0x07#8, 0x00#8]
    (cpu |>.setBytes 0x700 [0x41#8, 0x20#8, 0x00#8, 0x00#8] |>.setFp 2 0x41100000#32)
    (fun t => t.psw.cc == 1) = true := by decide
theorem test_exec_ae : runs [0x7A#8, 0x00#8, 0x03#8, 0x00#8]
    (cpu |>.setBytes 0x300 [0x40#8, 0x10#8, 0x00#8, 0x00#8] |>.setFp 0 0x41100000#32)
    (fun t => t.fp 0 == 0x41110000#32 && t.psw.cc == 2) = true := by decide
theorem test_exec_se : runs [0x7B#8, 0x00#8, 0x05#8, 0x00#8]
    (cpu |>.setBytes 0x500 [0x00#8, 0x10#8, 0x00#8, 0x01#8] |>.setFp 0 0x00100002#32)
    (fun t => t.fp 0 == 0x0#32 && t.psw.cc == 0) = true := by decide
theorem test_exec_me : runs [0x7C#8, 0x00#8, 0x08#8, 0x00#8]
    (cpu |>.setBytes 0x800 [0x60#8, 0x10#8, 0x00#8, 0x00#8] |>.setFp 0 0x60100000#32)
    (fun t => t.fp 0 == 0x7F100000#32) = true := by decide
theorem test_exec_de : runs [0x7D#8, 0x00#8, 0x09#8, 0x00#8]
    (cpu |>.setBytes 0x900 [0x45#8, 0x00#8, 0x00#8, 0x00#8] |>.setFp 0 0x77#32)
    (fun t => t.half 42 == 15) = true := by decide
theorem test_exec_au : runs [0x7E#8, 0x20#8, 0x04#8, 0x00#8]
    (cpu |>.setBytes 0x400 [0x46#8, 0x00#8, 0x00#8, 0x00#8] |>.setFp 2 0x41123456#32)
    (fun t => t.fp 2 == 0x46000001#32 && t.psw.cc == 2) = true := by decide
theorem test_exec_su : runs [0x7F#8, 0x00#8, 0x06#8, 0x00#8]
    (cpu |>.setBytes 0x600 [0x41#8, 0x10#8, 0x00#8, 0x00#8] |>.setFp 0 0x41100000#32)
    (fun t => t.fp 0 == 0x0#32 && t.psw.cc == 0) = true := by decide
theorem test_exec_ssm : runs [0x80#8, 0x00#8, 0x02#8, 0x00#8] (cpu |>.setBytes 0x200 [0x81#8])
    (fun t => t.psw.sm == 0x81) = true := by decide
theorem test_exec_lpsw : runs [0x82#8, 0x00#8, 0x00#8, 0x28#8]
    (cpu |>.setBytes 0x28 [0x01#8, 0x00#8, 0x00#8, 0x00#8, 0x90#8, 0x00#8, 0x10#8, 0x00#8])
    (fun t => t.psw.sm == 0x01 && t.psw.cc == 1 && t.psw.pm == 0x0 && t.psw.ia == 0x1000#20) = true := by decide
theorem test_exec_diagnose : runs [0x83#8, 0x00#8, 0x00#8, 0x00#8] { cpu with psw := { cpu.psw with p := true } }
    (fun t => t.half 42 == 2 && t.dword 40 == 0x0001000280001004#64) = true := by decide
theorem test_exec_bxh : runs [0x86#8, 0x24#8, 0x01#8, 0x00#8]
    (cpu |>.setReg 2 0x8#32 |>.setReg 4 0x4#32 |>.setReg 5 0xA#32)
    (fun t => t.reg 2 == 0xC#32 && t.psw.ia == 0x100#20) = true := by decide
theorem test_exec_bxle : runs [0x87#8, 0x24#8, 0x01#8, 0x00#8]
    (cpu |>.setReg 2 0x8#32 |>.setReg 4 0x4#32 |>.setReg 5 0xC#32)
    (fun t => t.reg 2 == 0xC#32 && t.psw.ia == 0x100#20) = true := by decide
theorem test_exec_srl : runs [0x88#8, 0x10#8, 0x00#8, 0x04#8] (cpu |>.setReg 1 0xF000000F#32)
    (fun t => t.reg 1 == 0x0F000000#32) = true := by decide
theorem test_exec_sll : runs [0x89#8, 0x10#8, 0x00#8, 0x04#8] (cpu |>.setReg 1 0xF000000F#32)
    (fun t => t.reg 1 == 0xF0#32) = true := by decide
theorem test_exec_sra : runs [0x8A#8, 0x30#8, 0x00#8, 0x01#8] (cpu |>.setReg 3 0xFFFFFFFB#32)
    (fun t => t.reg 3 == 0xFFFFFFFD#32 && t.psw.cc == 1) = true := by decide
theorem test_exec_sla : runs [0x8B#8, 0x10#8, 0x20#8, 0x01#8] (cpu |>.setReg 2 0xFFFFFFC0#32 |>.setReg 1 0x1#32)
    (fun t => t.reg 1 == 0x2#32 && t.psw.cc == 2) = true := by decide
theorem test_exec_srdl : runs [0x8C#8, 0x20#8, 0x00#8, 0x20#8]
    (cpu |>.setReg 2 0x12345678#32 |>.setReg 3 0x9ABCDEF0#32)
    (fun t => t.reg 2 == 0x0#32 && t.reg 3 == 0x12345678#32) = true := by decide
theorem test_exec_sldl : runs [0x8D#8, 0x20#8, 0x00#8, 0x08#8]
    (cpu |>.setReg 2 0x12345678#32 |>.setReg 3 0x9ABCDEF0#32)
    (fun t => t.reg 2 == 0x3456789A#32 && t.reg 3 == 0xBCDEF000#32) = true := by decide
theorem test_exec_srda : runs [0x8E#8, 0x40#8, 0x00#8, 0x04#8] (cpu |>.setReg 4 0x80000000#32 |>.setReg 5 0x10#32)
    (fun t => t.reg 4 == 0xF8000000#32 && t.reg 5 == 0x1#32 && t.psw.cc == 1) = true := by decide
theorem test_exec_slda : runs [0x8F#8, 0x20#8, 0x00#8, 0x20#8] (cpu |>.setReg 2 0x0#32 |>.setReg 3 0x1#32)
    (fun t => t.reg 2 == 0x1#32 && t.reg 3 == 0x0#32 && t.psw.cc == 2) = true := by decide
theorem test_exec_stm : runs [0x90#8, 0xEC#8, 0xD0#8, 0x0C#8]
    (cpu |>.setReg 13 0x3000#32 |>.setReg 14 0x0E#32 |>.setReg 0 0x10#32 |>.setReg 12 0x1C#32)
    (fun t => t.word 0x300C == 0x0E#32 && t.word 0x3014 == 0x10#32 && t.word 0x3044 == 0x1C#32) = true := by decide
theorem test_exec_tm : runs [0x91#8, 0xC0#8, 0x06#8, 0x00#8] (cpu |>.setBytes 0x600 [0x80#8])
    (fun t => t.psw.cc == 1) = true := by decide
theorem test_exec_mvi : runs [0x92#8, 0xFF#8, 0x00#8, 0x10#8] (cpu)
    (fun t => t.bytes 0x10 1 == [0xFF#8]) = true := by decide
theorem test_exec_ts : runs [0x93#8, 0x00#8, 0x03#8, 0x00#8] (cpu |>.setBytes 0x300 [0x00#8])
    (fun t => t.bytes 0x300 1 == [0xFF#8] && t.psw.cc == 0) = true := by decide
theorem test_exec_ni : runs [0x94#8, 0x0F#8, 0x05#8, 0x00#8] (cpu |>.setBytes 0x500 [0xAB#8])
    (fun t => t.bytes 0x500 1 == [0x0B#8] && t.psw.cc == 1) = true := by decide
theorem test_exec_cli : runs [0x95#8, 0x40#8, 0x01#8, 0x23#8] (cpu |>.setBytes 0x123 [0xC1#8])
    (fun t => t.psw.cc == 2) = true := by decide
theorem test_exec_oi : runs [0x96#8, 0x80#8, 0x05#8, 0x01#8] (cpu |>.setBytes 0x501 [0x01#8])
    (fun t => t.bytes 0x501 1 == [0x81#8] && t.psw.cc == 1) = true := by decide
theorem test_exec_xi : runs [0x97#8, 0xFF#8, 0x05#8, 0x02#8] (cpu |>.setBytes 0x502 [0xA5#8])
    (fun t => t.bytes 0x502 1 == [0x5A#8] && t.psw.cc == 1) = true := by decide
theorem test_exec_lm : runs [0x98#8, 0xE1#8, 0x02#8, 0x00#8]
    (cpu |>.setBytes 0x200 [0x11#8, 0x11#8, 0x11#8, 0x11#8, 0x22#8, 0x22#8, 0x22#8, 0x22#8, 0x33#8, 0x33#8,
      0x33#8, 0x33#8, 0x44#8, 0x44#8, 0x44#8, 0x44#8])
    (fun t => t.reg 14 == 0x11111111#32 && t.reg 15 == 0x22222222#32 && t.reg 0 == 0x33333333#32 &&
      t.reg 1 == 0x44444444#32) = true := by decide
theorem test_exec_srls : runs [0xA0#8, 0x10#8, 0x00#8, 0x04#8] (cpu |>.setReg 1 0xFFFFF00F#32)
    (fun t => t.reg 1 == 0xFFFF0F00#32) = true := by decide
theorem test_exec_slls : runs [0xA1#8, 0x10#8, 0x00#8, 0x04#8] (cpu |>.setReg 1 0xABCDF00F#32)
    (fun t => t.reg 1 == 0xABCD00F0#32) = true := by decide
theorem test_exec_sras : runs [0xA2#8, 0x10#8, 0x00#8, 0x01#8] (cpu |>.setReg 1 0xFFFB#32)
    (fun t => t.reg 1 == 0xFFFD#32 && t.psw.cc == 1) = true := by decide
theorem test_exec_slas : runs [0xA3#8, 0x10#8, 0x00#8, 0x02#8] (cpu |>.setReg 1 0x7FFF0001#32)
    (fun t => t.reg 1 == 0x7FFF0004#32 && t.psw.cc == 2) = true := by decide
theorem test_exec_tmrs : runs [0xA4#8, 0x35#8, 0x09#8, 0x00#8]
    (({ cpu with intimer := 0x1234 } : State) |>.setBytes 0x900 [0xFF#8, 0xFF#8])
    (fun t => t.reg 5 == 0x1234#32 && t.intimer == 0xFFFF#16) = true := by decide
theorem test_exec_sio : runs [0xA5#8, 0x12#8, 0x08#8, 0x00#8]
    (({ cpu with chanBusy := true } : State) |>.setBytes 0x800 [0xFF#8, 0x64#8] |>.setReg 2 0x5#32)
    (fun t => t.psw.cc == 1) = true := by decide
theorem test_exec_osi : runs [0xA6#8, 0x10#8, 0xF0#8, 0x00#8] (cpu |>.setReg 1 0x55550A0A#32)
    (fun t => t.reg 1 == 0x5555FA0A#32 && t.psw.cc == 1) = true := by decide
theorem test_exec_xsi : runs [0xA7#8, 0x10#8, 0xFF#8, 0xFF#8] (cpu |>.setReg 1 0xABCD00FF#32)
    (fun t => t.reg 1 == 0xABCDFF00#32 && t.psw.cc == 1) = true := by decide
theorem test_exec_lsi : runs [0xA8#8, 0x10#8, 0x12#8, 0x34#8] (cpu |>.setReg 1 0xFFFFFFFF#32)
    (fun t => t.reg 1 == 0xFFFF1234#32) = true := by decide
theorem test_exec_csi : runs [0xA9#8, 0x10#8, 0x80#8, 0x00#8] (cpu |>.setReg 1 0x7FFF#32)
    (fun t => t.psw.cc == 2) = true := by decide
theorem test_exec_asi : runs [0xAA#8, 0x50#8, 0xFF#8, 0xFF#8] (cpu |>.setReg 5 0xABCD0001#32)
    (fun t => t.reg 5 == 0xABCD0000#32 && t.psw.cc == 0) = true := by decide
theorem test_exec_ssi : runs [0xAB#8, 0x10#8, 0x00#8, 0x01#8] (cpu |>.setReg 1 0xFFFF8000#32)
    (fun t => t.reg 1 == 0xFFFF7FFF#32 && t.psw.cc == 3) = true := by decide
theorem test_exec_tbi : runs [0xAE#8, 0x10#8, 0x00#8, 0x0F#8] (cpu |>.setReg 1 0xF5#32)
    (fun t => t.psw.cc == 1) = true := by decide
theorem test_exec_dsi : runs [0xB0#8, 0x20#8, 0xFF#8, 0xFE#8] (cpu |>.setReg 2 0x7#32)
    (fun t => t.reg 2 == 0xFFFFFFFD#32) = true := by decide
theorem test_exec_msi : runs [0xB3#8, 0x20#8, 0x00#8, 0x03#8] (cpu |>.setReg 2 0x1234FFFE#32)
    (fun t => t.reg 2 == 0xFFFFFFFA#32) = true := by decide
theorem test_exec_nsi : runs [0xB4#8, 0x10#8, 0xFF#8, 0x00#8] (cpu |>.setReg 1 0x123400FF#32)
    (fun t => t.reg 1 == 0x12340000#32 && t.psw.cc == 0) = true := by decide
theorem test_exec_clsi : runs [0xB5#8, 0x10#8, 0x80#8, 0x00#8] (cpu |>.setReg 1 0x7FFF#32)
    (fun t => t.psw.cc == 1) = true := by decide
theorem test_exec_lhi : runs [0xB8#8, 0x30#8, 0xFF#8, 0xFF#8] (cpu)
    (fun t => t.reg 3 == 0xFFFFFFFF#32) = true := by decide
theorem test_exec_chi : runs [0xB9#8, 0x20#8, 0x00#8, 0x10#8] (cpu |>.setReg 2 0xFFFFFFFF#32)
    (fun t => t.psw.cc == 1) = true := by decide
theorem test_exec_ahi : runs [0xBA#8, 0x30#8, 0xFF#8, 0xFE#8] (cpu |>.setReg 3 0x5#32)
    (fun t => t.reg 3 == 0x3#32 && t.psw.cc == 2) = true := by decide
theorem test_exec_shi : runs [0xBB#8, 0x20#8, 0x00#8, 0x01#8] (cpu |>.setReg 2 0x80000000#32)
    (fun t => t.reg 2 == 0x7FFFFFFF#32 && t.psw.cc == 3) = true := by decide
theorem test_exec_mhi : runs [0xBC#8, 0x20#8, 0xFF#8, 0xFD#8] (cpu |>.setReg 2 0x7#32)
    (fun t => t.reg 2 == 0xFFFFFFEB#32) = true := by decide
theorem test_exec_lpsr : runs [0xC0#8, 0x12#8] (cpu |>.setReg 2 0xFFFB#32 |>.setReg 1 0x0#32)
    (fun t => t.reg 1 == 0x5#32 && t.psw.cc == 2) = true := by decide
theorem test_exec_lnsr : runs [0xC1#8, 0x12#8] (cpu |>.setReg 2 0x5#32 |>.setReg 1 0x0#32)
    (fun t => t.reg 1 == 0xFFFB#32 && t.psw.cc == 1) = true := by decide
theorem test_exec_ltsr : runs [0xC2#8, 0x11#8] (cpu |>.setReg 1 0x18000#32)
    (fun t => t.psw.cc == 1) = true := by decide
theorem test_exec_lcsr : runs [0xC3#8, 0x12#8] (cpu |>.setReg 2 0x8000#32 |>.setReg 1 0xAAAA0000#32)
    (fun t => t.reg 1 == 0xAAAA8000#32 && t.psw.cc == 3) = true := by decide
theorem test_exec_nsr : runs [0xC4#8, 0x12#8] (cpu |>.setReg 1 0xF0F0#32 |>.setReg 2 0xFFFF3C3C#32)
    (fun t => t.reg 1 == 0x3030#32 && t.psw.cc == 1) = true := by decide
theorem test_exec_clsr : runs [0xC5#8, 0x12#8] (cpu |>.setReg 1 0xFFFF0002#32 |>.setReg 2 0x2#32)
    (fun t => t.psw.cc == 0) = true := by decide
theorem test_exec_osr : runs [0xC6#8, 0x12#8] (cpu |>.setReg 1 0xF00#32 |>.setReg 2 0xFFFF00F0#32)
    (fun t => t.reg 1 == 0xFF0#32 && t.psw.cc == 1) = true := by decide
theorem test_exec_xsr : runs [0xC7#8, 0x11#8] (cpu |>.setReg 1 0x12345678#32)
    (fun t => t.reg 1 == 0x12340000#32 && t.psw.cc == 0) = true := by decide
theorem test_exec_lsr : runs [0xC8#8, 0x12#8] (cpu |>.setReg 1 0x11112222#32 |>.setReg 2 0x33334444#32)
    (fun t => t.reg 1 == 0x11114444#32) = true := by decide
theorem test_exec_csr : runs [0xC9#8, 0x12#8] (cpu |>.setReg 1 0x8000#32 |>.setReg 2 0x7FFF0000#32)
    (fun t => t.psw.cc == 1) = true := by decide
theorem test_exec_asr : runs [0xCA#8, 0x12#8] (cpu |>.setReg 1 0x8000#32 |>.setReg 2 0xFFFF#32)
    (fun t => t.reg 1 == 0x7FFF#32 && t.psw.cc == 3) = true := by decide
theorem test_exec_ssr : runs [0xCB#8, 0x12#8] (cpu |>.setReg 1 0xFFFF#32 |>.setReg 2 0x8000#32)
    (fun t => t.reg 1 == 0x7FFF#32 && t.psw.cc == 2) = true := by decide
theorem test_exec_msr : runs [0xCC#8, 0x23#8] (cpu |>.setReg 2 0x64#32 |>.setReg 3 0xFFF6#32)
    (fun t => t.reg 2 == 0xFFFFFC18#32) = true := by decide
theorem test_exec_dsr : runs [0xCD#8, 0x23#8] (cpu |>.setReg 2 0xFFFF8000#32 |>.setReg 3 0x1#32)
    (fun t => t.reg 2 == 0xFFFF8000#32) = true := by decide
theorem test_exec_bur : runs [0xCE#8, 0x0E#8] (cpu |>.setReg 14 0x40001234#32)
    (fun t => t.psw.ia == 0x1234#20) = true := by decide
theorem test_exec_nrm : runs [0xCF#8, 0x12#8] (cpu |>.setReg 1 0x1#32)
    (fun t => t.reg 1 == 0x40000000#32 && t.reg 2 == 0x1E#32 && t.psw.cc == 2) = true := by decide
theorem test_exec_lhr : runs [0xD0#8, 0x12#8] (cpu |>.setReg 2 0x12348001#32)
    (fun t => t.reg 1 == 0xFFFF8001#32) = true := by decide
theorem test_exec_mvn : runs [0xD1#8, 0x01#8, 0x02#8, 0x00#8, 0x02#8, 0x10#8]
    (cpu |>.setBytes 0x200 [0xF1#8, 0xF2#8] |>.setBytes 0x210 [0xC7#8, 0xC8#8])
    (fun t => t.bytes 0x200 2 == [0xF7#8, 0xF8#8]) = true := by decide
theorem test_exec_mvc : runs [0xD2#8, 0x03#8, 0x01#8, 0x01#8, 0x01#8, 0x00#8] (cpu |>.setBytes 0x100 [0xAA#8])
    (fun t => t.bytes 0x100 5 == [0xAA#8, 0xAA#8, 0xAA#8, 0xAA#8, 0xAA#8]) = true := by decide
theorem test_exec_mvz : runs [0xD3#8, 0x00#8, 0x02#8, 0x00#8, 0x02#8, 0x10#8]
    (cpu |>.setBytes 0x200 [0xF1#8] |>.setBytes 0x210 [0xC7#8])
    (fun t => t.bytes 0x200 1 == [0xC1#8]) = true := by decide
theorem test_exec_nc : runs [0xD4#8, 0x01#8, 0x06#8, 0x00#8, 0x06#8, 0x10#8]
    (cpu |>.setBytes 0x600 [0xFF#8, 0xFF#8] |>.setBytes 0x610 [0x0F#8, 0x00#8])
    (fun t => t.bytes 0x600 2 == [0x0F#8, 0x00#8] && t.psw.cc == 1) = true := by decide
theorem test_exec_clc : runs [0xD5#8, 0x02#8, 0x03#8, 0x00#8, 0x03#8, 0x10#8]
    (cpu |>.setBytes 0x300 [0xC1#8, 0xC2#8, 0xC3#8] |>.setBytes 0x310 [0xC1#8, 0xC2#8, 0xC4#8])
    (fun t => t.psw.cc == 1) = true := by decide
theorem test_exec_oc : runs [0xD6#8, 0x00#8, 0x06#8, 0x20#8, 0x06#8, 0x30#8]
    (cpu |>.setBytes 0x620 [0x00#8] |>.setBytes 0x630 [0x00#8])
    (fun t => t.psw.cc == 0) = true := by decide
theorem test_exec_xc : runs [0xD7#8, 0x07#8, 0x07#8, 0x00#8, 0x07#8, 0x00#8]
    (cpu |>.setBytes 0x700 [0x01#8, 0x02#8, 0x03#8, 0x04#8, 0x05#8, 0x06#8, 0x07#8, 0x08#8])
    (fun t => t.bytes 0x700 8 == [0x00#8, 0x00#8, 0x00#8, 0x00#8, 0x00#8, 0x00#8, 0x00#8, 0x00#8] &&
      t.psw.cc == 0) = true := by decide
theorem test_exec_tr : runs [0xDC#8, 0x01#8, 0x08#8, 0x00#8, 0x09#8, 0x00#8]
    (cpu |>.setBytes 0x800 [0x01#8, 0x02#8] |>.setBytes 0x900 [0xF0#8, 0xF1#8, 0xF2#8])
    (fun t => t.bytes 0x800 2 == [0xF1#8, 0xF2#8]) = true := by decide
theorem test_exec_trt : runs [0xDD#8, 0x03#8, 0x0A#8, 0x00#8, 0x0B#8, 0x00#8]
    (cpu |>.setBytes 0xA00 [0x40#8, 0x40#8, 0x6B#8, 0x40#8] |>.setBytes 0xB6B [0x02#8]
      |>.setReg 1 0xAA000000#32 |>.setReg 2 0x11111111#32)
    (fun t => t.reg 1 == 0xAA000A02#32 && t.reg 2 == 0x11111102#32 && t.psw.cc == 1) = true := by decide
theorem test_exec_mvo : runs [0xF1#8, 0x32#8, 0x05#8, 0x00#8, 0x06#8, 0x00#8]
    (cpu |>.setBytes 0x500 [0x12#8, 0x34#8, 0x56#8, 0x7C#8] |>.setBytes 0x600 [0xAB#8, 0xCD#8, 0xEF#8])
    (fun t => t.bytes 0x500 4 == [0x0A#8, 0xBC#8, 0xDE#8, 0xFC#8]) = true := by decide
theorem test_exec_pack : runs [0xF2#8, 0x23#8, 0x01#8, 0x00#8, 0x02#8, 0x00#8]
    (cpu |>.setBytes 0x200 [0xF1#8, 0xF2#8, 0xF3#8, 0xC4#8])
    (fun t => t.bytes 0x100 3 == [0x01#8, 0x23#8, 0x4C#8]) = true := by decide
theorem test_exec_unpk : runs [0xF3#8, 0x42#8, 0x03#8, 0x00#8, 0x04#8, 0x00#8]
    (({ cpu with psw := { cpu.psw with a := true } } : State) |>.setBytes 0x400 [0x01#8, 0x23#8, 0x4D#8])
    (fun t => t.bytes 0x300 5 == [0x50#8, 0x51#8, 0x52#8, 0x53#8, 0xD4#8]) = true := by decide
theorem test_exec_bal : runs [0x45#8, 0xE0#8, 0x03#8, 0x00#8] cpu
    (fun t => t.reg 14 == 0x80001004#32 && t.psw.ia == 0x300#20) = true := by decide
theorem test_exec_svc : runs [0x0A#8, 0x07#8] { cpu with psw := { cpu.psw with cc := 0x1, sm := 0xFF } }
    (fun t => t.dword 32 == 0xFF00000750001002#64 && t.psw.ia == 0x0#20 && t.key 0 == 1) = true := by decide

/-! ## Witnesses: for every statement with hypotheses, states and operands that meet them -/

/-- A storage operand is installed, checked by evaluation. -/
theorem installed_of {s : State} {a : Addr} {n : Nat} (h : s.availableN a n = true) : s.Installed a n :=
  (s.availableN_iff a n).mp h

/-- A storage operand is readable, and no DMA access falls into the instruction. -/
abbrev Reads (s : State) (a : Addr) (n al : Nat) : Prop := s.dma = [] ∧ s.Readable a n al

/-- A storage operand is writable, and no DMA access falls into the instruction. -/
abbrev Stores (s : State) (a : Addr) (n al : Nat) : Prop := s.dma = [] ∧ s.Writable a n al

theorem readable_of {s : State} {a : Addr} {n al : Nat} (h : s.availableN a n = true) (ha : a.toNat % al = 0)
    (hq : s.dma = [] := by rfl) : Reads s a n al := ⟨hq, installed_of h, ha⟩

theorem writable_of {s : State} {a : Addr} {n al : Nat} (h : s.availableN a n = true) (ha : a.toNat % al = 0)
    (hp : s.cpuProtectedN a n = false) (hq : s.dma = [] := by rfl) : Stores s a n al :=
  ⟨hq, ⟨installed_of h, ha⟩, (s.cpuProtectedN_iff a n).mp hp⟩

/-- A storage operand is not installed, checked by evaluation. -/
theorem not_installed_of {s : State} {a : Addr} {n : Nat} (h : s.availableN a n = false) : ¬s.Installed a n :=
  fun k => by simp [(s.availableN_iff a n).mpr k] at h

/-- A machine with 2048 bytes of storage. -/
def small : State := { cpu with params := { Params.standard with memSize := 2048 }, psw := { cpu.psw with ia := 0x7F8 } }

/-- A machine with the two register values of an operation in registers 1 and 2, and a storage address in register 4. -/
def two (x y : Word) (a : Word) : State := cpu |>.setReg 1 x |>.setReg 2 y |>.setReg 4 a

/-- The same with PSW bit 36 one. -/
def masked (s : State) : State := { s with psw := { s.psw with pm := 8 } }

/-- The same in problem state. -/
def problem (s : State) : State := { s with psw := { s.psw with p := true } }

def image : ResetImage :=
  { gr := Vector.replicate 16 7, fpr := Vector.replicate 4 7, psw := Psw.zero, keys := [(0, 3)], rtc := 9, chanBusy := true,
    mem := [(5, 1)] }

def payload : Payload :=
  { data := 0xABCD, addr := 0, tape := [], fails := false, clearFails := none, holder := false }

theorem witness_ResetLeavesSoftStop :
    { cpu with env := [.systemReset image] }.params.wf = true ∧
    { cpu with env := [.systemReset image] }.env = .systemReset image :: [] := by decide

theorem witness_StepKeepsInvariant :
    (cpu.setBytes 0x1000 [0x18#8, 0x12#8]).Inv ∧ ∃ t, step (cpu.setBytes 0x1000 [0x18#8, 0x12#8]) = .next t :=
  ⟨by decide, _, rfl⟩

/-- The last halfword of the whole address space. -/
theorem witness_StepRunsDecodedInstruction_top :
    let s := { cpu with psw := { cpu.psw with ia := 0xFFFFE#20 } }.setBytes 0xFFFFE [0x18#8, 0x12#8]
    s.Fetches ∧ s.psw.key = 0#4 ∧ s.psw.ia.getLsbD 0 = false ∧ s.Installed s.psw.ia 2 ∧ s.params.memSize = 2 ^ 20 ∧
    s.dma = [] ∧ instrLength s.params.opts.short (s.access.byte s.psw.ia) = 1 ∧
    decode s.params.opts (s.readHalves s.psw.ia 1).1 = .ok (.lr 1 2, []) :=
  ⟨by unfold State.Fetches; decide, by decide, by decide, by unfold State.Installed; decide, rfl, rfl, by decide, rfl⟩

/-- The last halfword before the last fullword of a smaller storage. -/
theorem witness_StepRunsDecodedInstruction_small :
    let s := { small with psw := { small.psw with ia := 0x7FA#20 } }.setBytes 0x7FA [0x18#8, 0x12#8]
    s.Fetches ∧ s.psw.key = 0#4 ∧ s.psw.ia.getLsbD 0 = false ∧ s.Installed s.psw.ia 2 ∧
    s.psw.ia.toNat + 2 * 1 + 4 ≤ s.params.memSize ∧
    instrLength s.params.opts.short (s.access.byte s.psw.ia) = 1 ∧
    decode s.params.opts (s.readHalves s.psw.ia 1).1 = .ok (.lr 1 2, []) :=
  ⟨by unfold State.Fetches; decide, by decide, by decide, by unfold State.Installed; decide, by decide, by decide, rfl⟩

/-- DMA stores the instruction just before it is fetched. -/
theorem witness_StepRunsDecodedInstruction_dma :
    let s := { cpu with dma := [[.write 0x800#19 0x1812#16]] }
    s.Fetches ∧ s.psw.key = 0#4 ∧ s.psw.ia.getLsbD 0 = false ∧ s.Installed s.psw.ia 2 ∧ s.params.memSize = 2 ^ 20 ∧
    instrLength s.params.opts.short (s.access.byte s.psw.ia) = 1 ∧
    decode s.params.opts (s.readHalves s.psw.ia 1).1 = .ok (.lr 1 2, []) :=
  ⟨by unfold State.Fetches; decide, by decide, by decide, by unfold State.Installed; decide, rfl, by decide, rfl⟩

theorem witness_FetchExceptionsInOrder_unavailable :
    let s := { small with psw := { small.psw with ia := 0x800#20 } }
    s.Fetches ∧ s.params.memSize ≤ s.psw.ia.toNat := ⟨by unfold State.Fetches; decide, by decide⟩

theorem witness_FetchExceptionsInOrder_key :
    let s := { cpu with psw := { cpu.psw with key := 1#4 } }
    s.Fetches ∧ ¬s.params.memSize ≤ s.psw.ia.toNat ∧ s.psw.key ≠ 0#4 :=
  ⟨by unfold State.Fetches; decide, by decide, by decide⟩

theorem witness_FetchExceptionsInOrder_odd :
    let s := { cpu with psw := { cpu.psw with ia := 0xFFFFF#20 } }
    s.Fetches ∧ ¬s.params.memSize ≤ s.psw.ia.toNat ∧ s.psw.ia.getLsbD 0 = true :=
  ⟨by unfold State.Fetches; decide, by decide, by decide⟩

theorem witness_FetchExceptionsInOrder_partly_unavailable :
    let s := { small with psw := { small.psw with ia := 0x7FE#20 } }.setBytes 0x7FE [0x58#8]
    s.Fetches ∧ ¬s.params.memSize ≤ s.psw.ia.toNat ∧ s.psw.key = 0#4 ∧ s.psw.ia.getLsbD 0 = false ∧
    ¬s.Installed s.psw.ia (2 * instrLength s.params.opts.short (s.access.byte s.psw.ia)) :=
  ⟨by unfold State.Fetches; decide, by decide, by decide, by decide, by unfold State.Installed; decide⟩

theorem witness_FetchExceptionsInOrder_unassigned :
    cpu.Fetches ∧ ¬cpu.params.memSize ≤ cpu.psw.ia.toNat ∧ cpu.psw.key = 0#4 ∧ cpu.psw.ia.getLsbD 0 = false ∧
    cpu.Installed cpu.psw.ia (2 * instrLength cpu.params.opts.short (cpu.access.byte cpu.psw.ia)) ∧
    ∀ r ∈ opRows, r.op = cpu.access.byte cpu.psw.ia → r.need.met cpu.params.opts = false :=
  ⟨by unfold State.Fetches; decide, by decide, by decide, by decide, by unfold State.Installed; decide, by decide +kernel⟩

theorem witness_BoundaryTakesRequestsInOrder_stopped :
    State.reset.params.wf = true ∧ State.reset.env = [] ∧ State.reset.mode ≠ .operating := by decide

theorem witness_BoundaryTakesRequestsInOrder_timer :
    let s := { cpu with pendTimer := true, pendKey := true, psw := { cpu.psw with sm := 0x81#8 } }
    s.params.wf = true ∧ s.env = [] ∧ ¬s.mode ≠ .operating ∧ s.pendTimer = true ∧ s.maskTimer = true := by decide

theorem witness_BoundaryTakesRequestsInOrder_key :
    let s := { cpu with pendTimer := true, pendKey := true, psw := { cpu.psw with sm := 0x80#8 } }
    s.params.wf = true ∧ s.env = [] ∧ ¬s.mode ≠ .operating ∧ ¬(s.pendTimer = true ∧ s.maskTimer = true) ∧
    s.maskIo = true ∧ s.pendKey = true := by decide

theorem witness_BoundaryTakesRequestsInOrder_io :
    let s := { cpu with pendIo := some 0x2010#16, psw := { cpu.psw with sm := 0x80#8 } }
    s.params.wf = true ∧ s.env = [] ∧ ¬s.mode ≠ .operating ∧ ¬(s.pendTimer = true ∧ s.maskTimer = true) ∧
    ¬(s.maskIo = true ∧ s.pendKey = true) ∧ s.maskIo = true ∧ s.pendIo ≠ none := by decide

theorem witness_BoundaryTakesRequestsInOrder_wait :
    let s := { cpu with pendIo := some 0x2010#16, psw := { cpu.psw with w := true } }
    s.params.wf = true ∧ s.env = [] ∧ ¬s.mode ≠ .operating ∧ ¬(s.pendTimer = true ∧ s.maskTimer = true) ∧
    ¬(s.maskIo = true ∧ s.pendKey = true) ∧ ¬(s.maskIo = true ∧ s.pendIo ≠ none) ∧ s.psw.w = true := by decide

theorem witness_TickMovesTimers_busy :
    let s := { cpu with env := [.tick], chanBusy := true }
    s.params.wf = true ∧ s.env = .tick :: [] ∧ s.chanBusy = true := by decide

theorem witness_TickMovesTimers_soft_stop :
    let s := { State.reset with env := [.tick] }
    s.params.wf = true ∧ s.env = .tick :: [] ∧ s.chanBusy = false ∧ s.mode ≠ .hung ∧ s.mode = .softStop := by decide

/-- A device that releases the channel in a burst clears the status word in operation and leaves it in soft stop (R529,
R551). -/
theorem test_release_clears_status_word_in_operation_only :
    let s := { cpu with chanBusy := true, burst := some { device := 2, input := true, addr := 0x402, count := 0xFFFF } }
    let u := s.setHalf 66 0x400#16
    let after := fun m : Mode => { u with mode := m, env := [.busy false] }.boundary
    ((match after .operating with | .next t => t.half 66 == 0#16 && !t.chanBusy | _ => false) &&
      (match after .softStop with | .next t => t.half 66 == 0x400#16 && !t.chanBusy | _ => false)) = true := by decide

theorem witness_TickMovesTimers_underflow :
    let s := { cpu with env := [.tick], intimer := 0#16, rtc := 0xFFFFFFFF#32 }
    s.params.wf = true ∧ s.env = .tick :: [] ∧ s.chanBusy = false ∧ s.mode = .operating ∧ s.intimer = 0#16 := by decide

theorem witness_TickMovesTimers_down :
    let s := { cpu with env := [.tick], intimer := 1#16 }
    s.params.wf = true ∧ s.env = .tick :: [] ∧ s.chanBusy = false ∧ s.mode = .operating ∧ s.intimer ≠ 0#16 := by decide

/-- The last word, halfword and byte of storage. Also for `AddsLogical`, `ConnectsWords` (word), `LoadsShort`,
`ConnectsShort` (halfword). -/
theorem witness_LoadsFromStorage :
    let s := two 0 0 0xFFFFC#32
    Reads s (s.eax 4 0 0) 4 4 ∧ Reads s (s.eax 4 0 2) 2 2 ∧ Reads s (s.eax 4 0 3) 1 1 :=
  ⟨readable_of (by decide) (by decide), readable_of (by decide) (by decide), readable_of (by decide) (by decide)⟩

/-- AR, SR, LCR, LPR, AHI, SHI at the two ends of the range. -/
theorem witness_AddsRegister_in_range :
    let s := two 0x7FFFFFFF#32 0#32 0
    let u := two 0x80000000#32 0x80000001#32 0
    InRange 32 ((s.reg 1).toInt + (s.reg 2).toInt) ∧ InRange 32 ((u.reg 1).toInt - (s.reg 2).toInt) ∧
    InRange 32 (-(u.reg 2).toInt) ∧ InRange 32 ((u.reg 2).toInt.natAbs) ∧
    InRange 32 ((s.reg 1).toInt + (0xFFFF#16).toInt) ∧ InRange 32 ((s.reg 1).toInt - (0#16).toInt) := by
  unfold InRange; decide

theorem witness_AddsRegister_overflow :
    let s := two 0x7FFFFFFF#32 1#32 0
    let u := two 0x80000000#32 0x80000000#32 0
    s.maskOverflow = false ∧ (masked s).maskOverflow = true ∧
    ¬InRange 32 ((s.reg 1).toInt + (s.reg 2).toInt) ∧ ¬InRange 32 ((u.reg 1).toInt - (s.reg 2).toInt) ∧
    ¬InRange 32 (-(u.reg 2).toInt) ∧ ¬InRange 32 ((u.reg 2).toInt.natAbs) ∧
    ¬InRange 32 ((s.reg 1).toInt + (1#16).toInt) ∧ ¬InRange 32 ((u.reg 1).toInt - (1#16).toInt) := by
  unfold InRange; decide

/-- A, S, AH, SH with the operand at 0xFFFFC, in range and beyond it. -/
theorem witness_AddsFromStorage :
    let s := (two 0x7FFFFFFF#32 0 0xFFFFC#32).setWord 0xFFFFC 0x00000001#32
    let u := (two 0x80000000#32 0 0xFFFFC#32).setWord 0xFFFFC 0x00000001#32
    (Reads s (s.eax 4 0 0) 4 4 ∧ Reads s (s.eax 4 0 2) 2 2) ∧
    (s.maskOverflow = false ∧ (masked s).maskOverflow = true) ∧
    InRange 32 ((u.reg 1).toInt + (u.word (u.eax 4 0 0)).toInt) ∧
    ¬InRange 32 ((s.reg 1).toInt + (s.word (s.eax 4 0 0)).toInt) ∧
    InRange 32 ((s.reg 1).toInt - (s.word (s.eax 4 0 0)).toInt) ∧
    ¬InRange 32 ((u.reg 1).toInt - (u.word (u.eax 4 0 0)).toInt) ∧
    InRange 32 ((u.reg 1).toInt + (u.half (u.eax 4 0 2)).toInt) ∧
    ¬InRange 32 ((s.reg 1).toInt + (s.half (s.eax 4 0 2)).toInt) ∧
    InRange 32 ((s.reg 1).toInt - (s.half (s.eax 4 0 2)).toInt) ∧
    ¬InRange 32 ((u.reg 1).toInt - (u.half (u.eax 4 0 2)).toInt) :=
  ⟨⟨readable_of (by decide) (by decide), readable_of (by decide) (by decide)⟩, by decide, by unfold InRange; decide⟩

theorem witness_AddsLogical : Reads (two 0 0 0xFFFFC#32) ((two 0 0 0xFFFFC#32).eax 4 0 0) 4 4 :=
  readable_of (by decide) (by decide)

theorem witness_ComparesWords :
    let s := two 0 0 0xFFFFC#32
    Reads s (s.eax 4 0 0) 4 4 ∧ Reads s (s.eax 4 0 2) 2 2 :=
  ⟨readable_of (by decide) (by decide), readable_of (by decide) (by decide)⟩

/-- The register pair 14, 15. -/
theorem witness_MultipliesWords :
    let s := two 0 0 0xFFFFC#32
    evenReg 14 = true ∧ Reads s (s.eax 4 0 0) 4 4 ∧ Reads s (s.eax 4 0 2) 2 2 :=
  ⟨by decide, readable_of (by decide) (by decide), readable_of (by decide) (by decide)⟩

/-- The dividend in the pair 14, 15 and the divisor in register 2 and at 0xFFFFC: the largest and smallest quotient, the
next ones beyond, a remainder of the dividend's sign, and a zero divisor. -/
theorem witness_DividesWords :
    let s := fun h l d : Word => ((two 0 d 0xFFFFC#32).setReg 14 h |>.setReg 15 l).setWord 0xFFFFC d
    let good := fun (u : State) (q m : Int) =>
      (u.reg 14 ++ u.reg (14 + 1#4)).toInt = q * (u.reg 2).toInt + m ∧ m.natAbs < (u.reg 2).toInt.natAbs ∧
      (m = 0 ∨ (m < 0 ↔ (u.reg 14 ++ u.reg (14 + 1#4)).toInt < 0)) ∧ u.word (u.eax 4 0 0) = u.reg 2
    evenReg 14 = true ∧ (∀ k, k < 4 → ((s 0 0 1).eax 4 0 0 + BitVec.ofNat 20 k).toNat < (s 0 0 1).params.memSize) ∧
    good (s 0 0x7FFFFFFF#32 1) (2 ^ 31 - 1) 0 ∧ InRange 32 (2 ^ 31 - 1) ∧
    good (s (-1) 0x80000000#32 1) (-(2 ^ 31)) 0 ∧ InRange 32 (-(2 ^ 31)) ∧
    good (s 0 0x80000000#32 1) (2 ^ 31) 0 ∧ ¬InRange 32 (2 ^ 31) ∧
    good (s (-1) (-7) 2) (-3) (-1) ∧ (s 0 5 0).reg 2 = 0#32 ∧ (s 0 5 0).word ((s 0 5 0).eax 4 0 0) = 0#32 := by
  unfold InRange; decide

/-- At the last double word of storage: the largest number that fits, the next one, an invalid digit, an invalid sign. -/
theorem witness_ConvertsRadix :
    let s := fun v : Dword => (two 0 0 0xFFFF8#32).setDword 0xFFFF8 v
    let w := fun v : Dword => (s v).dword ((s v).eax 4 0 0)
    Reads (s 0) ((s 0).eax 4 0 0) 8 8 ∧ Stores (s 0) ((s 0).eax 4 0 0) 8 8 ∧
    (DecimalValid (w 0x000002147483647C#64) ∧ InRange 32 (decimalNumber (w 0x000002147483647C#64))) ∧
    (DecimalValid (w 0x000002147483648C#64) ∧ ¬InRange 32 (decimalNumber (w 0x000002147483648C#64))) ∧
    ¬DecimalValid (w 0x00000000000000AC#64) ∧ ¬DecimalValid (w 0x0000000000000019#64) :=
  ⟨readable_of (by decide) (by decide), writable_of (by decide) (by decide) (by decide),
    by unfold DecimalValid InRange; decide, by unfold DecimalValid InRange; decide,
    by unfold DecimalValid; decide, by unfold DecimalValid; decide⟩

theorem witness_StoresRegister :
    let s := two 0 0 0xFFFFC#32
    Stores s (s.eax 4 0 0) 4 4 ∧ Stores s (s.eax 4 0 2) 2 2 ∧ Stores s (s.eax 4 0 3) 1 1 ∧
    (evenReg 14 = true ∧ Stores s (s.eax 4 0 0xFFC#12) 8 4) ∧ fpReg 6 = true ∧ Stores s (s.ea 4 3) 1 1 :=
  ⟨writable_of (by decide) (by decide) (by decide), writable_of (by decide) (by decide) (by decide),
    writable_of (by decide) (by decide) (by decide),
    ⟨by decide, writable_of (by decide) (by decide) (by decide)⟩, by decide,
    writable_of (by decide) (by decide) (by decide)⟩

/-- One register, and all sixteen from 15 over 0 to 14. -/
theorem witness_MovesMultiple :
    let s := two 0 0 0xFFFFC#32
    let u := two 0 0 0xFFFC0#32
    (Reads s (s.ea 4 0) (4 * ((3#4 - 3#4).toNat + 1)) 4 ∧ Stores s (s.ea 4 0) (4 * ((3#4 - 3#4).toNat + 1)) 4) ∧
    Reads u (u.ea 4 0) (4 * ((14#4 - 15#4).toNat + 1)) 4 ∧ Stores u (u.ea 4 0) (4 * ((14#4 - 15#4).toNat + 1)) 4 :=
  ⟨⟨readable_of (by decide) (by decide), writable_of (by decide) (by decide) (by decide)⟩,
    readable_of (by decide) (by decide), writable_of (by decide) (by decide) (by decide)⟩

/-- SLA and SLAS by one and SLDA of the pair 14, 15, in range and beyond it. -/
theorem witness_ShiftsArithmetic :
    let s := two 0x3FFF3FFF#32 0x40004000#32 0
    let w := ((s.setReg 14 0x3FFFFFFF#32).reg 14 ++ s.reg 2 : Dword)
    let v := (s.reg 2 ++ s.reg 2 : Dword)
    let n := (s.ea 0 1).toNat % 64
    s.maskOverflow = false ∧ (masked s).maskOverflow = true ∧ evenReg 14 = true ∧
    InRange 32 ((s.reg 1).toInt * 2 ^ min n 31) ∧ ¬InRange 32 ((s.reg 2).toInt * 2 ^ min n 31) ∧
    InRange 16 (((s.reg 1).extractLsb' 0 16).toInt * 2 ^ min n 15) ∧
    ¬InRange 16 (((s.reg 2).extractLsb' 0 16).toInt * 2 ^ min n 15) ∧
    InRange 64 (w.toInt * 2 ^ min n 63) ∧ ¬InRange 64 (v.toInt * 2 ^ min n 63) := by
  unfold InRange; decide

theorem witness_ShiftsLogical : evenReg 0 = true ∧ evenReg 14 = true := by decide

/-- The pairs 12, 13 and 14, 15, and a double word on the last word boundary that takes one: in range and beyond it. -/
theorem witness_DoublePrecisionArithmetic :
    let s := fun h l : Word => ((two 0 0 0xFFFF4#32).setReg 12 0x7FFFFFFF#32 |>.setReg 13 0xFFFFFFFF#32 |>.setReg 14 h
      |>.setReg 15 l).setDword 0xFFFF4 (h ++ l)
    let x := fun h l : Word => ((s h l).reg 12 ++ (s h l).reg (12 + 1#4)).toInt
    let y := fun h l : Word => ((s h l).reg 14 ++ (s h l).reg (14 + 1#4)).toInt
    let w := fun h l : Word => ((s h l).dword ((s h l).eax 4 0 0)).toInt
    (evenReg 12 = true ∧ evenReg 14 = true) ∧ Reads (s 0 0) ((s 0 0).eax 4 0 0) 8 4 ∧
    ((s 0 0).maskOverflow = false ∧ (masked (s 0 0)).maskOverflow = true) ∧
    InRange 64 (x 0 0 + y 0 0) ∧ ¬InRange 64 (x 0 1 + y 0 1) ∧ InRange 64 (x 0 0 - y 0 0) ∧
    ¬InRange 64 (x (-1) (-1) - y (-1) (-1)) ∧ InRange 64 (-y 0 1) ∧ ¬InRange 64 (-y 0x80000000#32 0) ∧
    InRange 64 (x 0 0 + w 0 0) ∧ ¬InRange 64 (x 0 1 + w 0 1) ∧ InRange 64 (x 0 0 - w 0 0) ∧
    ¬InRange 64 (x (-1) (-1) - w (-1) (-1)) :=
  ⟨by decide, readable_of (by decide) (by decide), by decide, by unfold InRange; decide⟩

theorem witness_LoadsShort : Reads (two 0 0 0xFFFFE#32) ((two 0 0 0xFFFFE#32).eax 4 0 0) 2 2 :=
  readable_of (by decide) (by decide)

/-- ASR, SSR, ASI, SSI, LCSR, LPSR, LFSR, AS, SS in range and beyond it. -/
theorem witness_AddsShort :
    let s := (two 0x7FFF#32 1#32 0xFFFFE#32).setHalf 0xFFFFE 1#16
    let u := (two 0x8000#32 0x8000#32 0xFFFFE#32).setHalf 0xFFFFE 1#16
    let lo := fun (t : State) (r : Reg) => ((t.reg r).extractLsb' 0 16).toInt
    let h := fun t : State => (t.half (t.eax 4 0 0)).toInt
    Reads s (s.eax 4 0 0) 2 2 ∧ (s.maskOverflow = false ∧ (masked s).maskOverflow = true) ∧
    InRange 16 (lo u 1 + lo s 2) ∧ ¬InRange 16 (lo s 1 + lo s 2) ∧ InRange 16 (lo s 1 - lo s 2) ∧
    ¬InRange 16 (lo u 1 - lo s 2) ∧ InRange 16 (lo u 1 + (1#16).toInt) ∧ ¬InRange 16 (lo s 1 + (1#16).toInt) ∧
    InRange 16 (lo s 1 - (1#16).toInt) ∧ ¬InRange 16 (lo u 1 - (1#16).toInt) ∧
    InRange 16 (-lo s 1) ∧ ¬InRange 16 (-lo u 2) ∧ InRange 16 ((lo s 1).natAbs) ∧ ¬InRange 16 ((lo u 2).natAbs) ∧
    InRange 16 (s.reg 1).toInt ∧ ¬InRange 16 (u.reg 1).toInt ∧
    InRange 16 (lo u 1 + h u) ∧ ¬InRange 16 (lo s 1 + h s) ∧ InRange 16 (lo s 1 - h s) ∧ ¬InRange 16 (lo u 1 - h u) :=
  ⟨readable_of (by decide) (by decide), by decide, by unfold InRange; decide⟩

theorem witness_ComparesShort : Reads (two 0 0 0xFFFFE#32) ((two 0 0 0xFFFFE#32).eax 4 0 0) 2 2 :=
  readable_of (by decide) (by decide)

theorem witness_ConnectsShort : Reads (two 0 0 0xFFFFE#32) ((two 0 0 0xFFFFE#32).eax 4 0 0) 2 2 :=
  readable_of (by decide) (by decide)

/-- The dividend in register 1, the divisor in register 2, at 0xFFFFE and as the immediate: the largest and smallest
quotient, one beyond, a remainder of the dividend's sign, and a zero divisor. -/
theorem witness_MultipliesAndDividesShort :
    let s := fun (n : Word) (d : Half) => (two n (d.setWidth 32) 0xFFFFE#32).setHalf 0xFFFFE d
    let good := fun (n : Word) (d : Half) (q m : Int) =>
      ((s n d).reg 1).toInt = q * d.toInt + m ∧ m.natAbs < d.toInt.natAbs ∧
      (m = 0 ∨ (m < 0 ↔ ((s n d).reg 1).toInt < 0)) ∧
      ((s n d).reg 2).extractLsb' 0 16 = d ∧ (s n d).half ((s n d).eax 4 0 0) = d
    Reads (s 0 0) ((s 0 0).eax 4 0 0) 2 2 ∧
    (good 0x7FFF#32 1 (2 ^ 15 - 1) 0 ∧ InRange 16 (2 ^ 15 - 1)) ∧ (good 0x8000#32 (-1) (-(2 ^ 15)) 0 ∧
      InRange 16 (-(2 ^ 15))) ∧
    (good 0x8000#32 1 (2 ^ 15) 0 ∧ ¬InRange 16 (2 ^ 15)) ∧ good (-7) 2 (-3) (-1) ∧
    ((s 5 0).reg 2).extractLsb' 0 16 = 0#16 ∧ (s 5 0).half ((s 5 0).eax 4 0 0) = 0#16 :=
  ⟨readable_of (by decide) (by decide), by unfold InRange; decide⟩

theorem witness_NormalizesWord : (two 0 0 0).reg 1 = 0#32 ∧ (two 1 0 0).reg 1 ≠ 0#32 ∧ (2 : Reg) ≠ 1 := by decide

theorem witness_ConnectsWords : Reads (two 0 0 0xFFFFC#32) ((two 0 0 0xFFFFC#32).eax 4 0 0) 4 4 :=
  readable_of (by decide) (by decide)

theorem witness_OperatesOnByte :
    let s := two 0 0 0xFFFFF#32
    Stores s (s.ea 4 0) 1 1 ∧ Reads s (s.ea 4 0) 1 1 :=
  ⟨writable_of (by decide) (by decide) (by decide), readable_of (by decide) (by decide)⟩

/-- One byte, sixteen bytes that do not overlap, the same field twice, and a field one byte to the right. -/
theorem witness_CombinesFields :
    let s := two 0x200#32 0x300#32 0x201#32
    let apart := fun (a1 a2 : Addr) (n : Nat) =>
      ∀ k, k < n → ∀ j, j < k → a2 + BitVec.ofNat 20 k ≠ a1 + BitVec.ofNat 20 j
    (Stores s (s.ea 1 0) ((0xF#8).toNat + 1) 1 ∧ s.Installed (s.ea 2 0) ((0xF#8).toNat + 1)) ∧
    apart (s.ea 1 0) (s.ea 2 0) ((0xF#8).toNat + 1) ∧ apart (s.ea 1 0) (s.ea 1 0) ((0xF#8).toNat + 1) ∧
    apart (s.ea 1 0) (s.ea 2 0) ((0#8).toNat + 1) ∧
    (Stores s (s.ea 4 0) ((0xFF#8).toNat + 1) 1 ∧ s.Installed (s.ea 1 0) ((0xFF#8).toNat + 1)) ∧
    s.ea 4 0 = s.ea 1 0 + 1#20 :=
  ⟨⟨writable_of (by decide) (by decide) (by decide), installed_of (by decide)⟩, by decide, by decide,
    by decide, ⟨writable_of (by decide +kernel) (by decide) (by decide +kernel),
    installed_of (by decide +kernel)⟩, by decide⟩

/-- Equal fields; fields that differ in the last byte. -/
theorem witness_ComparesFields :
    let s := (two 0x200#32 0x300#32 0).setBytes 0x200 [1#8, 2#8, 3#8] |>.setBytes 0x300 [1#8, 2#8, 4#8]
    let x := fun k : Nat => s.byte (s.ea 1 0 + BitVec.ofNat 20 k)
    let y := fun k : Nat => s.byte (s.ea 2 0 + BitVec.ofNat 20 k)
    (s.dma = [] ∧ s.Installed (s.ea 1 0) 3 ∧ s.Installed (s.ea 2 0) 3) ∧ (∀ k, k < (1#8).toNat + 1 → x k = y k) ∧
    2 < (2#8).toNat + 1 ∧ (∀ j, j < 2 → x j = y j) ∧ x 2 ≠ y 2 :=
  ⟨⟨rfl, installed_of (by decide), installed_of (by decide)⟩, by decide, by decide, by decide,
    by decide⟩

/-- A field of two arguments and a list of function bytes apart from it; all function bytes zero; the last one not. -/
theorem witness_TranslatesFields :
    let s := (two 0x200#32 0x300#32 0).setBytes 0x200 [1#8, 255#8]
    let u := s.setBytes 0x3FF [7#8]
    let entry := fun (t : State) (k : Nat) => t.ea 2 0 + (t.byte (t.ea 1 0 + BitVec.ofNat 20 k)).setWidth 20
    (Stores s (s.ea 1 0) ((1#8).toNat + 1) 1 ∧ s.Installed (s.ea 1 0) ((1#8).toNat + 1)) ∧
    (∀ k, k < 2 → s.availableN (entry s k) 1 = true ∧ s.byte (entry s k) = 0#8) ∧
    (∀ k, k < 2 → ∀ j, j < k → entry s k ≠ s.ea 1 0 + BitVec.ofNat 20 j) ∧
    (∀ k, k < 2 → u.availableN (entry u k) 1 = true) ∧ u.byte (entry u 0) = 0#8 ∧ u.byte (entry u 1) ≠ 0#8 :=
  ⟨⟨writable_of (by decide) (by decide) (by decide), installed_of (by decide)⟩, by decide, by decide,
    by decide, by decide, by decide⟩

/-- The longest fields, side by side. -/
theorem witness_MovesDecimalDigits :
    let s := two 0x200#32 0x210#32 0
    (Stores s (s.ea 1 0) ((15#4).toNat + 1) 1 ∧ s.Installed (s.ea 2 0) ((15#4).toNat + 1)) ∧
    ∀ j, j < 16 → ∀ k, k < 16 → s.ea 1 0 + BitVec.ofNat 20 j ≠ s.ea 2 0 + BitVec.ofNat 20 k :=
  ⟨⟨writable_of (by decide) (by decide) (by decide), installed_of (by decide)⟩, by decide⟩

/-- An LR at the last halfword of storage as the subject; its operands come from register 1. -/
theorem witness_ExecutesSubject_runs :
    let s := (two 0x12#32 0 0xFFFFE#32).setBytes 0xFFFFE [0x18#8, 0x00#8]
    let a := s.eax 4 0 0
    (s.inExecute = false ∧ s.dma = []) ∧ a.getLsbD 0 = false ∧
      s.Installed a (2 * instrLength s.params.opts.short (s.byte a)) ∧
    s.params.memSize = 2 ^ 20 ∧ s.byte a = 0x18#8 ∧
    decode s.params.opts [s.byte a, s.byte (a + 1#20) ||| (s.reg 1).extractLsb' 0 8] = .ok (.lr 1 2, []) :=
  ⟨⟨rfl, rfl⟩, by decide, by unfold State.Installed; decide, rfl, by decide, rfl⟩

theorem witness_ExecutesSubject_execute :
    let s := (two 0 0 0x200#32).setBytes 0x200 [0x44#8]
    let a := s.eax 4 0 0
    (s.inExecute = false ∧ s.dma = []) ∧ a.getLsbD 0 = false ∧
      s.Installed a (2 * instrLength s.params.opts.short (s.byte a)) ∧
    s.params.memSize = 2 ^ 20 ∧ s.byte a = 0x44#8 :=
  ⟨⟨rfl, rfl⟩, by decide, by unfold State.Installed; decide, rfl, by decide⟩

/-- An EX and an LR in the last fullword of a smaller storage as the subject. -/
theorem witness_ExecutesSubject_last_fullword :
    let s := ({ small with psw := small.psw }.setReg 4 0x7FA#32).setBytes 0x7FA [0x44#8, 0, 0x18#8, 0x12#8]
    let a := s.eax 4 0 0
    (s.inExecute = false ∧ s.dma = []) ∧ (a.getLsbD 0 = false ∧ (a + 2#20).getLsbD 0 = false) ∧
    (s.Installed a 4 ∧ s.Installed (a + 2#20) 2) ∧
    (s.params.memSize < 2 ^ 20 ∧ s.params.memSize < a.toNat + 2 * 2 + 4 ∧
      s.params.memSize < (a + 2#20).toNat + 2 * 1 + 4) ∧
    decode s.params.opts (s.bytes a 4) = .ok (.ex 0 0 1 0x812#12, []) ∧
    decode s.params.opts (s.bytes (a + 2#20) 2) = .ok (.lr 1 2, []) :=
  ⟨⟨rfl, rfl⟩, by decide, by unfold State.Installed; decide, by decide, rfl, rfl⟩

/-- A subject EX in the last fullword is refused (R561, D33). -/
theorem test_exec_ex_subject_last_fullword :
    (match exec (.ex 0 4 0 0) (({ small with psw := small.psw }.setReg 4 0x7FA#32).setByte 0x7FA 0x44#8) with
     | .refused r => r == .lastFullword | _ => false) = true := by decide

/-- A DMA store into the block whose key SSK sets, after its fetch and under the old key (R517). -/
theorem test_exec_ssk_after_dma : runs [0x08#8, 0x12#8]
    ({ cpu with dma := [[], [.write 0x600#19 7#16]] } |>.setReg 1 1#32 |>.setReg 2 0xC00#32)
    (fun t => t.key 3 == 1 && t.half 0xC00 == 7#16 && t.dma == []) = true := by decide

theorem witness_ExecutesSubject_operation :
    let s := two 0 0 0x200#32
    let a := s.eax 4 0 0
    (s.inExecute = false ∧ s.dma = []) ∧ a.getLsbD 0 = false ∧
      s.Installed a (2 * instrLength s.params.opts.short (s.byte a)) ∧
    ∀ r ∈ opRows, r.op = s.byte a → r.need.met s.params.opts = false :=
  ⟨⟨rfl, rfl⟩, by decide, by unfold State.Installed; decide, by decide +kernel⟩

theorem witness_ExecutesSubject_fetch :
    let s := ({ small with psw := small.psw }.setReg 4 0x7FE#32).setBytes 0x7FE [0x58#8]
    let a := s.eax 4 0 0
    (s.inExecute = false ∧ s.dma = []) ∧ s.Installed a 1 ∧ a.getLsbD 0 = false ∧
    ¬s.Installed a (2 * instrLength s.params.opts.short (s.byte a)) ∧
    s.Installed (s.eax 4 0 1) 1 ∧ (s.eax 4 0 1).getLsbD 0 = true ∧ ¬s.Installed (s.eax 4 0 2) 1 := by
  unfold State.Installed; decide

/-- The double word at the top of storage; the old PSW of a program interruption. -/
theorem witness_LoadPswReturns :
    let s := two 0 0 0xFFFF8#32
    let u := (problem s).interrupt .program 7 1
    (s.psw.p = false ∧ Reads s (s.ea 4 0) 1 8) ∧ IntClass.program ≠ .machineCheck ∧ (u.dma = [] ∧ u.psw.p = false) ∧
    u.ea 0 0x028#12 = IntClass.program.oldLoc ∧ u.Installed IntClass.program.oldLoc 1 ∧
    u.dword IntClass.program.oldLoc = ((problem s).interrupt .program 7 1).dword IntClass.program.oldLoc :=
  ⟨⟨rfl, readable_of (by decide) (by decide)⟩, by decide, ⟨rfl, by decide⟩, by decide, by unfold State.Installed; decide,
    rfl⟩

/-- The last byte of storage, the last block. -/
theorem witness_SetsMasksAndKeys :
    let s := two 0 0xFFFFFFFF#32 0xFFFFF#32
    s.dma = [] ∧ s.psw.p = false ∧ s.Installed (s.ea 4 0) 1 ∧
    ((s.reg 2).extractLsb' 10 10).toNat * 1024 < s.params.memSize :=
  ⟨rfl, rfl, by unfold State.Installed; decide, by decide⟩

theorem witness_TimerReadAndSet :
    let s := two 0 0 0xFFFFC#32
    Reads s (s.ea 4 0) 1 2 ∧ s.psw.p = false ∧ s.Installed (s.ea 4 0 + 2#20) 1 :=
  ⟨readable_of (by decide) (by decide), rfl, by unfold State.Installed; decide⟩

/-- The command words of the clauses, at the last halfword of storage: FF41 and 0003 busy and free, the panel inputs, an
input with a word ready and with none, reset, test, a word of no form. -/
theorem witness_StartsInputOutput :
    let s := fun (cmd : Half) (busy : Bool) =>
      { two 0 0 0xFFFFE#32 with chanBusy := busy, deviceWords := [5#16] }.setHalf 0xFFFFE cmd
    let none := { s 3 false with deviceWords := [] }
    let left := fun (cmd : Half) => ((s cmd false).half ((s cmd false).ea 4 0)).extractLsb' 8 8
    ((s 0 false).psw.p = false ∧ Reads (s 0 false) ((s 0 false).ea 4 0) 1 2) ∧
    (left 0xFF61#16 = 0xFF#8 ∧ (s 0xFF61#16 true).chanBusy = true) ∧
    (left 0xFF61#16 = 0xFF#8 ∧ (s 0xFF61#16 false).chanBusy = false) ∧
    (left 0x0003#16 = 0x00#8 ∧ (s 3 false).chanBusy = false ∧ ¬(4 ≤ ((s 3 false).half ((s 3 false).ea 4 0)).toNat ∧
      ((s 3 false).half ((s 3 false).ea 4 0)).toNat ≤ 7) ∧ (s 3 false).deviceWords = 5#16 :: []) ∧
    (none.half (none.ea 4 0) = 3#16 ∧ none.chanBusy = false ∧ none.deviceWords = [] ∧ none.dma = [] ∧ none.psw.p = false) ∧
    (left 4 = 0 ∧
      ∀ k ∈ [4, 5, 6, 7], (s (BitVec.ofNat 16 k) false).half ((s (BitVec.ofNat 16 k) false).ea 4 0) = BitVec.ofNat 16 k ∧
      (s (BitVec.ofNat 16 k) false).chanBusy = false) ∧
    (left 0x0003#16 = 0x00#8 ∧ (s 3 true).chanBusy = true) ∧
    (left 0xF000#16 ≠ 0xFF#8 ∧ left 0xF000#16 ≠ 0x00#8 ∧ left 0xF000#16 ∈ (s 0 false).params.sioReset) ∧
    (left 0x0F00#16 ≠ 0xFF#8 ∧ left 0x0F00#16 ≠ 0x00#8 ∧ left 0x0F00#16 ∉ (s 0 false).params.sioReset ∧
      left 0x0F00#16 ∈ (s 0 false).params.sioTest) ∧
    (left 0x0100#16 ≠ 0xFF#8 ∧ left 0x0100#16 ≠ 0x00#8 ∧ left 0x0100#16 ∉ (s 0 false).params.sioReset ∧
      left 0x0100#16 ∉ (s 0 false).params.sioTest) :=
  ⟨⟨rfl, readable_of (by decide) (by decide)⟩, by decide, by decide, by decide, by decide, by decide, by decide, by decide,
    by decide, by decide⟩

theorem witness_PrivilegedNeedsSupervisor :
    let s := problem (two 0 0 0xFFFFE#32)
    (s.psw.p = true ∧ s.Installed (s.ea 4 1) 1 ∧ Reads s (s.ea 4 0) 1 2) ∧ cpu.psw.p = false :=
  ⟨⟨rfl, by unfold State.Installed; decide, readable_of (by decide) (by decide)⟩, rfl⟩

/-- Also for `ComparesFloating`. -/
theorem witness_LoadsFloating :
    let s := two 0 0 0xFFFFC#32
    fpReg 0 = true ∧ fpReg 6 = true ∧ Reads s (s.eax 4 0 0) 4 4 :=
  ⟨by decide, by decide, readable_of (by decide) (by decide)⟩

theorem witness_ComparesFloating :
    let s := two 0 0 0xFFFFC#32
    fpReg 0 = true ∧ fpReg 6 = true ∧ Reads s (s.eax 4 0 0) 4 4 :=
  ⟨by decide, by decide, readable_of (by decide) (by decide)⟩

/-- A machine with two numbers in floating-point registers 0 and 2, the second at 0x200 too, and a program mask. -/
def floats (v w : Word) (pm : BitVec 4) : State :=
  ({ cpu with psw := { cpu.psw with pm := pm } }.setFp 0 v |>.setFp 2 w).setWord 0x200 w

theorem witness_floats :
    fpReg 0 = true ∧ fpReg 2 = true ∧ Reads (floats 0 0 0) ((floats 0 0 0).eax 0 0 0x200#12) 4 4 :=
  ⟨by decide, by decide, readable_of (by decide) (by decide)⟩

/-- A sum that fits, the largest number doubled, the difference of the two smallest normalized numbers under both masks,
and a zero sum under both masks. -/
theorem witness_AddsFloatingNormalized :
    let sum := fun (v w : Word) => fpGuardedSum ((floats v w 0).fp 0) ((floats v w 0).fp 2)
    FpFits (sum 0x41100000#32 0x41100000#32) ∧ pow16 63 ≤ |sum 0x7FFFFFFF#32 0x7FFFFFFF#32| ∧
    (sum 0x00100001#32 0x80100000#32 ≠ 0 ∧ |sum 0x00100001#32 0x80100000#32| < pow16 (-65)) ∧
    ((floats 0 0 2).maskUnderflow = true ∧ (floats 0 0 0).maskUnderflow = false) ∧
    sum 0x41100000#32 0xC1100000#32 = 0 ∧
    (floats 0 0 1).maskSignificance = true ∧ (floats 0 0 0).maskSignificance = false := by
  unfold FpFits; decide +kernel

/-- The five clauses, the last two on both sides of the greatest characteristic. -/
theorem witness_AddsFloatingUnnormalized :
    let s := fun (v w : Word) => floats v w 0
    let c := fun (v w : Word) => max (fpChar ((s v w).fp 0)) (fpChar ((s v w).fp 2))
    let x := fun (v w : Word) => |fpGuardedSum ((s v w).fp 0) ((s v w).fp 2)|
    x 0x41000000#32 0x41000000#32 < pow16 (c 0x41000000#32 0x41000000#32 - 64 - 6) ∧
    (pow16 (c 0x41000001#32 0x41000000#32 - 64 - 6) ≤ x 0x41000001#32 0x41000000#32 ∧
      x 0x41000001#32 0x41000000#32 < pow16 (c 0x41000001#32 0x41000000#32 - 64)) ∧
    (pow16 (c 0x7EFFFFFF#32 0x7E000001#32 - 64) ≤ x 0x7EFFFFFF#32 0x7E000001#32 ∧ c 0x7EFFFFFF#32 0x7E000001#32 < 127) ∧
    (pow16 (c 0x7FFFFFFF#32 0x7F000001#32 - 64) ≤ x 0x7FFFFFFF#32 0x7F000001#32 ∧ c 0x7FFFFFFF#32 0x7F000001#32 = 127) := by
  decide +kernel

/-- Products and quotients that fit, overflow and underflow, a zero product, a zero divisor. -/
theorem witness_MultipliesAndDividesFloating :
    let n := fun v : Word => fpNumber ((floats v v 0).fp 2)
    (FpFits (n 0x41200000#32 * n 0x41300000#32) ∧ pow16 63 ≤ |n 0x7F100000#32 * n 0x41F00000#32 * 16| ∧
      pow16 63 ≤ |n 0x7FFFFFFF#32 * n 0x42100000#32|) ∧
    (n 0x00100000#32 * n 0x40100000#32 ≠ 0 ∧ |n 0x00100000#32 * n 0x40100000#32| < pow16 (-65)) ∧
    n 0x00000000#32 * n 0x41100000#32 = 0 ∧
    (n 0x41300000#32 ≠ 0 ∧ FpFits (n 0x41100000#32 / n 0x41300000#32)) ∧
    pow16 63 ≤ |n 0x7F100000#32 / n 0x40100000#32| ∧ |n 0x00100000#32 / n 0x42100000#32| < pow16 (-65) ∧
    FpFits (n 0x41100000#32 / 2) ∧ |n 0x00100000#32 / 2| < pow16 (-65) ∧ n 0x41000000#32 = 0 := by
  unfold FpFits; decide +kernel

/-- Just beyond the end of storage, misaligned, protected: for each operand length. -/
theorem witness_StorageOperandsAreChecked :
    let s := small.setReg 4 0x7FC#32
    let u := (two 0 0 0x3FC#32).setKey 1 2#2
    (¬s.Installed (s.eax 4 0 4) 1 ∧ ¬s.Installed (s.eax 4 0 4) 2 ∧ ¬s.Installed (s.eax 4 0 4) 4 ∧
      ¬s.Installed (s.eax 4 0 4) 8 ∧
      ¬s.Installed (s.ea 4 4) 1) ∧
    (s.Installed (s.eax 0 0 1) 8 ∧ (s.eax 0 0 1).toNat % 8 ≠ 0 ∧ (s.eax 0 0 1).toNat % 4 ≠ 0 ∧
      (s.eax 0 0 1).toNat % 2 ≠ 0) ∧
    (u.Readable (u.eax 4 0 0) 8 4 ∧ ¬u.Unprotected (u.eax 4 0 0) 8) ∧
    (u.Readable (u.eax 4 0 4) 8 8 ∧ ¬u.Unprotected (u.eax 4 0 4) 8) ∧
    (u.Readable (u.eax 4 0 4) 4 4 ∧ ¬u.Unprotected (u.eax 4 0 4) 4) ∧
    (u.Readable (u.eax 4 0 4) 2 2 ∧ ¬u.Unprotected (u.eax 4 0 4) 2) ∧
    (u.Readable (u.eax 4 0 4) 1 1 ∧ ¬u.Unprotected (u.eax 4 0 4) 1) ∧
    (u.Readable (u.ea 4 4) 1 1 ∧ ¬u.Unprotected (u.ea 4 4) 1) := by
  unfold State.Readable State.Installed State.Unprotected; decide

theorem witness_RegisterNumbersAreChecked :
    let s := two 0 0 0xFFFFC#32
    (evenReg 1 = false ∧ evenReg 15 = false ∧ fpReg 1 = false ∧ fpReg 7 = false ∧ fpReg 8 = false ∧ fpReg 14 = false) ∧
    Reads s (s.eax 4 0 0) 4 4 ∧ Reads s (s.eax 4 0 0xFFC#12) 8 4 ∧ Stores s (s.eax 4 0 0xFFC#12) 8 4 ∧
    Stores s (s.eax 4 0 0) 4 4 :=
  ⟨by decide, readable_of (by decide) (by decide), readable_of (by decide) (by decide),
    writable_of (by decide) (by decide) (by decide), writable_of (by decide) (by decide) (by decide)⟩

/-- An instruction that completes in problem state, and one that is a supervisor call. -/
theorem witness_ProblemStateIsConfined :
    (problem cpu).psw.p = true ∧ (∃ t, exec (.lr 1 2) (problem cpu) = .next t) ∧
    ∃ t, exec (.svc 9) (problem cpu) = .next t := ⟨rfl, ⟨_, rfl⟩, ⟨_, rfl⟩⟩

/-- A byte that the DMA accesses spare, and one in a block that is closed to them too. -/
theorem witness_ProtectedStorageIsKept :
    let s := { cpu with dma := [[.write 0x201#19 7]] }.setKey 1 2#2
    let u := { cpu with dma := [[.write 0x200#19 7]] }.setKey 1 3#2
    (s.cpuProtected 0x400#20 = true ∧ s.DmaSpares 0x400#20 ∧ 48 ≤ (0x400#20).toNat ∧
      ∃ t, exec (.mvi 9 0 0x3FF#12) s = .next t) ∧
    u.cpuProtected 0x400#20 = true ∧ u.dmaProtected 0x400#20 = true ∧ ∃ t, exec (.mvi 9 0 0x3FF#12) u = .next t := by
  refine ⟨⟨by decide, ?_, by decide, _, rfl⟩, by decide, by decide, _, rfl⟩
  intro xs hxs h w hx
  have hxs : xs ∈ [[DmaAccess.write 0x201#19 7]] := hxs
  obtain rfl := List.mem_singleton.mp hxs
  simp only [List.mem_singleton, DmaAccess.write.injEq] at hx
  obtain ⟨rfl, rfl⟩ := hx
  decide

/-- Device 3, its table entry at 0x418, data at 0x200: input, output, and a zero count of each. -/
def device (request : Half) (count : Half) : State :=
  { cpu with env := [.request request payload] } |>.setWord 72 0x400#32 |>.setHalf 0x418 0x200#16
    |>.setHalf 0x41A count |>.setHalf 0x41C 0x200#16 |>.setHalf 0x41E count

/-- Buffered input goes on while a masked I/O request is pending (R291, R521). -/
theorem test_buffered_input_beside_request :
    (match step { device 0x4031#16 1#16 with pendIo := some 0x2010#16 } with
     | .next t => t.half 0x200 == 0xABCD#16 && t.half 0x41A == 0#16 && t.pendIo == some 0x2010#16 | _ => false) = true := by
  decide

/-- A DMA store between the two halfword accesses of an operand, after the two of the fetch (R90, D8). -/
theorem test_exec_l_torn_by_dma : runs [0x58#8, 0x10#8, 0x02#8, 0x00#8]
    ({ cpu with dma := [[], [], [], [.write 0x101#19 0xBEEF#16]] }.setWord 0x200 0x11112222#32)
    (fun t => t.reg 1 == 0x1111BEEF#32 && t.dma == []) = true := by decide

theorem witness_BufferedTransferMovesHalfword :
    let entry := fun s : State => (s.word 72).extractLsb' 0 20 + (3#4).setWidth 20 * 8#20
    let s := device 0x4031#16 1#16
    let u := device 0x0031#16 1#16
    let z := device 0x4031#16 0#16
    let y := device 0x0031#16 0#16
    let common := fun (t : State) (w : Half) =>
      t.params.wf = true ∧ t.params.layout = Params.standard.layout ∧ t.mode = .operating ∧
      t.env = .request w payload :: [] ∧ t.dma = [] ∧ t.chanBusy = false ∧ t.pendKey = false ∧ t.pendIo = none ∧
      t.burst = none ∧
      payload.fails = false ∧ w.getLsbD 15 = false ∧ w.getLsbD 13 = false ∧ w.extractLsb' 0 4 ≠ 0#4 ∧
      w.extractLsb' 4 4 = 3#4 ∧ entry t = 0x418#20 ∧ t.availableN (entry t) 8 = true
    (common s 0x4031#16 ∧ common u 0x0031#16 ∧ common z 0x4031#16 ∧ common y 0x0031#16) ∧
    (∀ j, j < 8 → ∀ k, k < 2 → entry s + BitVec.ofNat 20 j ≠ 66 + BitVec.ofNat 20 k) ∧
    ((0x4031#16).getLsbD 14 = true ∧ 1 ≤ (s.half (entry s + 2#20)).toInt) ∧ Stores s ((s.half (entry s)).setWidth 20) 2 2 ∧
    (∀ j, j < 8 → ∀ k, k < 2 → entry s + BitVec.ofNat 20 j ≠ (s.half (entry s)).setWidth 20 + BitVec.ofNat 20 k) ∧
    (∀ j, j < 2 → ∀ k, k < 2 → (s.half (entry s)).setWidth 20 + BitVec.ofNat 20 j ≠ 66 + BitVec.ofNat 20 k) ∧
    ((0x0031#16).getLsbD 14 = false ∧ 1 ≤ (u.half (entry u + 6#20)).toInt) ∧
    Reads u ((u.half (entry u + 4#20)).setWidth 20) 2 2 ∧
    (∀ j, j < 2 → ∀ k, k < 2 → (u.half (entry u + 4#20)).setWidth 20 + BitVec.ofNat 20 j ≠ 66 + BitVec.ofNat 20 k) ∧
    z.half (entry z + 2#20) = 0#16 ∧ y.half (entry y + 6#20) = 0#16 :=
  ⟨⟨by decide, by decide, by decide, by decide⟩, by decide, by decide, writable_of (by decide) (by decide) (by decide),
    by decide, by decide, by decide, readable_of (by decide) (by decide), by decide, by decide, by decide⟩

/-- The last halfword of storage, its block open and closed to DMA, and one that is not installed. -/
theorem witness_DmaObeysItsOwnKey :
    let s := { small with env := [.dma (.write 0x3FF#19 7#16)] }
    let u := s.setKey 1 1#2
    let r := { small with env := [.dma (.read 0x3FF#19)] }
    let out := { small with env := [.dma (.write 0x400#19 7#16)] }
    (s.params.wf = true ∧ s.mode ≠ .hung ∧ s.env = .dma (.write 0x3FF#19 7#16) :: [] ∧ s.Installed (0x3FF#19 ++ 0#1) 2 ∧
      (s.key ((0x3FF#19 ++ 0#1 : Addr).toNat / 1024)).getLsbD 0 = false) ∧
    (u.key ((0x3FF#19 ++ 0#1 : Addr).toNat / 1024)).getLsbD 0 = true ∧
    (r.env = .dma (.read 0x3FF#19) :: [] ∧ r.Installed (0x3FF#19 ++ 0#1) 2) ∧ ¬out.Installed (0x400#19 ++ 0#1) 2 := by
  unfold State.Installed; decide

/-- The last word of storage: a DMA store into its second halfword, into its first, and, for the byte instructions, into the
halfword of its first byte. -/
theorem witness_DmaObeysItsOwnKey_inside :
    let s := fun (r : List (List DmaAccess)) => { two 0 0 0xFFFFC#32 with dma := r }
    let e : List (List DmaAccess) := []
    (Reads (s e) ((s e).eax 4 0 0) 4 4 ∧ Stores (s e) ((s e).ea 4 0) 2 2) ∧
    (s [[], [.write 0x7FFFF#19 7]]).dma = [[], [.write 0x7FFFF#19 7]] ∧
    (s [[.write 0x7FFFE#19 7]]).dma = [[.write 0x7FFFE#19 7]] ∧
    ((s e).key (((s e).eax 4 0 0).toNat / 1024)).getLsbD 0 = false ∧
    (0x7FFFF#19 ++ 0#1 : Addr) = (s e).eax 4 0 0 + 2#20 ∧ (0x7FFFE#19 ++ 0#1 : Addr) = (s e).eax 4 0 0 ∧
    (0x7FFFE#19 ++ 0#1 : Addr) = (s e).ea 4 0 :=
  ⟨⟨readable_of (by decide) (by decide), writable_of (by decide) (by decide) (by decide)⟩, rfl, rfl, by decide⟩

/-- MEMORY CLEAR that meets an error at the first halfword, and at the last. -/
theorem witness_OperatorFunctions_clear :
    cpu.Installed (0#19 ++ 0#1) 2 ∧ cpu.Installed (0x7FFFF#19 ++ 0#1) 2 := by unfold State.Installed; decide

theorem witness_OperatorFunctions (m : Mode) (w : Half) :
    let s := { cpu with mode := m, env := [.request w payload] }
    s.params.wf = true ∧ s.chanBusy = false ∧ s.pendKey = false ∧ s.pendIo = none ∧ s.mode = m ∧
    s.env = .request w payload :: [] ∧ payload.clearFails = none :=
  ⟨(by decide : Params.standard.wf = true), rfl, rfl, rfl, rfl, rfl, rfl⟩

end Sys2Proof.Tests
end

section
/-! PROOFS.
The register forms of the fixed-point instructions (spec/40_fixed_point.md), and the logical adds and the comparisons in all
their forms. Each group of instructions has one lemma here that says what its common ending leaves; an instruction's part of
a statement is that lemma at the instruction's meaning.
-/
namespace Sys2Proof.Machine

/-! ## Loads -/

/-- The condition code of LOAD NEGATIVE is the sign of the exact negative absolute value (R156). -/
theorem ccS_negAbs {w : Nat} (hw : 0 < w) (v : BitVec w) : ccS (negAbs v) = ccOfSign (-(v.toInt.natAbs : Int)) := by
  rw [ccS_eq, negAbs_eq, toInt_ofInt_inRange hw (inRange_negAbs hw v)]

/-- Settles O13: LR and LHI put a value in a register, LTR and LNR set the condition code besides. -/
theorem loadsRegister : Obligations.LoadsRegister := by
  intro s r1 r2 i2 v
  refine ⟨?lr, ?ltr, ?lnr, ?lhi⟩
  case lr => exact ⟨_, rfl, regResult_setReg s r1 v⟩
  case ltr =>
    rw [← ccS_eq]
    exact ⟨_, rfl, regResult_setReg_setCc s r1 v (ccS v)⟩
  case lnr =>
    rw [← ccS_negAbs (by decide), ← negAbs_eq]
    exact ⟨_, rfl, regResult_setReg_setCc s r1 (negAbs v) (ccS (negAbs v))⟩
  case lhi => exact ⟨_, rfl, regResult_setReg s r1 (i2.signExtend 32)⟩

/-! ## Algebraic adds and subtracts -/

/-- A halfword extended to a word stands for the same integer (R330). -/
theorem toInt_signExtend_half (h : Half) : (h.signExtend 32).toInt = h.toInt :=
  BitVec.toInt_signExtend_of_le (by decide)

/-- An instruction that puts the exact integer `x`, narrowed to the word `v`, in register `r` (R143, R144). -/
theorem endsArith_putArith {i : Instr} {s : State} {r : Reg} {z : Word × Bool} {x : Int} {v : Word}
    (he : exec i s = putArith r z s) (hz : z = narrow 32 x) (hv : (narrow 32 x).1 = v) :
    EndsArith i s 32 x (RegResult s r v) := by
  subst hz hv
  exact endsArith_of_finish (by decide) he (fun c => regResult_setReg_setCc s r _ c) rfl

/-- Settles O15: each instruction narrows its exact result, and the overflow is that of the narrowing. -/
theorem addsRegister : Obligations.AddsRegister := by
  intro s r1 r2 i2 x y
  have hi : (i2.signExtend 32).toInt = i2.toInt := toInt_signExtend_half i2
  refine ⟨?ar, ?sr, ?lcr, ?lpr, ?ahi, ?shi⟩
  case ar => exact endsArith_putArith rfl rfl (narrow_fst_add x y)
  case sr => exact endsArith_putArith rfl rfl (narrow_fst_sub x y)
  case lcr => exact endsArith_putArith rfl (subS_zero y) (narrow_fst_neg y)
  case lpr => exact endsArith_putArith rfl (absS_eq (by decide) y) (narrow_fst_abs y)
  case ahi =>
    rw [← hi]
    exact endsArith_putArith rfl rfl (narrow_fst_add x (i2.signExtend 32))
  case shi =>
    rw [← hi]
    exact endsArith_putArith rfl rfl (narrow_fst_sub x (i2.signExtend 32))

/-! ## Logical adds and subtracts -/

theorem addL_eq {w : Nat} (a b : BitVec w) : addL a b = (a + b, decide (2 ^ w ≤ a.toNat + b.toNat)) := by
  simp [addL, BitVec.ofNat_add]

/-- Subtracting is adding the complement and one (R166). -/
theorem subL_eq {w : Nat} (a b : BitVec w) :
    subL a b = (a - b, decide (2 ^ w ≤ a.toNat + (~~~b).toNat + 1)) := by
  have h : BitVec.ofNat w (a.toNat + (~~~b).toNat + 1) = a - b := by
    rw [BitVec.sub_eq_add_neg, BitVec.neg_eq_not_add, ← BitVec.add_assoc, BitVec.ofNat_add, BitVec.ofNat_add,
      BitVec.ofNat_toNat, BitVec.ofNat_toNat, BitVec.setWidth_eq, BitVec.setWidth_eq]
  simp only [subL, h]

/-- The carry is PSW bit 34 and a nonzero result PSW bit 35 (R161). -/
theorem ccL_eq {w : Nat} (v : BitVec w) (c : Bool) : ccL (v, c) = BitVec.ofBool c ++ BitVec.ofBool (v != 0#w) := by
  by_cases hv : v = 0#w
  · cases c <;> simp [ccL, hv]
  · have hb : (v != 0#w) = true := bne_iff_ne.2 hv
    cases c <;> simp [ccL, hv, hb]

/-- An instruction that puts a logical result in register `r`. -/
theorem completes_putLogical {i : Instr} {s : State} {r : Reg} {z : Word × Bool} {v : Word} {c : Bool}
    (he : exec i s = putLogical r z s) (hz : z = (v, c)) :
    Completes i s (RegResult s r v (BitVec.ofBool c ++ BitVec.ofBool (v != 0#32))) := by
  subst hz
  rw [← ccL_eq]
  exact ⟨_, he, regResult_setReg_setCc s r v (ccL (v, c))⟩

/-- Settles O17: both forms of an instruction end alike, the operand coming from a register or from readable storage. -/
theorem addsLogical : Obligations.AddsLogical := by
  intro s r1 r2 x2 b2 d2 a x sumCode diffCode
  refine ⟨?alr, ?slr, fun hq hr => ⟨?al, ?sl⟩⟩
  case alr => exact completes_putLogical rfl (addL_eq x (s.reg r2))
  case slr => exact completes_putLogical rfl (subL_eq x (s.reg r2))
  case al => exact completes_putLogical (withWord_quiet hq hr _ _) (addL_eq x (s.word a))
  case sl => exact completes_putLogical (withWord_quiet hq hr _ _) (subL_eq x (s.word a))

/-! ## Comparisons -/

/-- An instruction that sets the condition code to the order of two integers. -/
theorem completes_ccCompare {i : Instr} {s : State} {x y : Int} (he : exec i s = .next (s.setCc (ccCompare x y))) :
    Completes i s (CcResult s (ccOfOrder x y)) := by
  rw [← ccCompare_eq]
  exact ⟨_, he, ccResult_setCc s (ccCompare x y)⟩

/-- Settles O18: every comparison is that of two integers, the signed or the unsigned values of its operands. -/
theorem comparesWords : Obligations.ComparesWords := by
  intro s r1 r2 x2 b2 d2 i2 a x
  refine ⟨?cr, ?chi, ?clr, fun hq hr => ⟨?c, ?cl⟩, fun hq hr => ?ch⟩
  case cr => exact completes_ccCompare rfl
  case chi =>
    rw [← toInt_signExtend_half i2]
    exact completes_ccCompare rfl
  case clr => exact completes_ccCompare rfl
  case c => exact completes_ccCompare (withWord_quiet hq hr _ _)
  case cl => exact completes_ccCompare (withWord_quiet hq hr _ _)
  case ch =>
    rw [← toInt_signExtend_half (s.half a)]
    exact completes_ccCompare (withHalf_quiet hq hr _ _)

end Sys2Proof.Machine
end

section
/-! PROOFS.
The logical shifts and the connectives of words (spec/42_logical.md). The shifts of the model, which multiply and divide by
a power of two, are the shifts of bit vectors; each result place has one lemma that says what an instruction that ends by
writing it leaves.
-/
namespace Sys2Proof.Machine

/-! ## Logical shifts -/

/-- Multiplying by a power of two, modulo `2 ^ w`, moves the bits to the left (R249). -/
theorem shiftLeftL_eq {w : Nat} (v : BitVec w) (n : Nat) : shiftLeftL v n = v <<< n := by
  apply BitVec.eq_of_toNat_eq
  rw [shiftLeftL, BitVec.toNat_ofNat, BitVec.toNat_shiftLeft, Nat.shiftLeft_eq]

/-- Dividing by a power of two moves the bits to the right (R250). -/
theorem shiftRightL_eq {w : Nat} (v : BitVec w) (n : Nat) : shiftRightL v n = v >>> n := by
  rw [shiftRightL, ← Nat.shiftRight_eq_div_pow, ← BitVec.toNat_ushiftRight, BitVec.ofNat_toNat, BitVec.setWidth_eq]

/-- An instruction that only writes general register `r`. -/
theorem completes_setReg {i : Instr} {s : State} {r : Reg} {z v : Word} (he : exec i s = .next (s.setReg r z))
    (hz : z = v) : Completes i s (RegResult s r v s.psw.cc) := by
  subst hz
  exact ⟨_, he, regResult_setReg s r z⟩

/-- An instruction that only writes bits 16-31 of general register `r`. -/
theorem completes_setLo {i : Instr} {s : State} {r : Reg} {z v : Half} (he : exec i s = .next (s.setLo r z))
    (hz : z = v) : Completes i s (LoResult s r v s.psw.cc) := by
  subst hz
  exact ⟨_, he, loResult_setLo s r z⟩

/-- An instruction that checks the register number and then only writes the register pair `r` (R111). -/
theorem completes_setPair {i : Instr} {s : State} {r : Reg} {z v : Dword}
    (he : exec i s = needEven s r (.next (s.setPair r z))) (heven : evenReg r = true) (hz : z = v) :
    Completes i s (PairResult s r v s.psw.cc) := by
  subst hz
  rw [needEven_even heven] at he
  exact ⟨_, he, pairResult_setPair s heven z⟩

/-- Settles O25: each instruction writes its shifted operand back to where it came from, and nothing else. -/
theorem shiftsLogical : Obligations.ShiftsLogical := by
  intro s r1 b2 d2 n v w h
  refine ⟨?sll, ?srl, ?slls, ?srls, fun heven => ?double⟩
  case sll => exact completes_setReg rfl (shiftLeftL_eq v n)
  case srl => exact completes_setReg rfl (shiftRightL_eq v n)
  case slls => exact completes_setLo rfl (shiftLeftL_eq h n)
  case srls => exact completes_setLo rfl (shiftRightL_eq h n)
  case double =>
    have hpair : s.pair r1 = w := s.pair_even heven
    refine ⟨?sldl, ?srdl⟩
    case sldl => exact completes_setPair rfl heven (hpair ▸ shiftLeftL_eq (s.pair r1) n)
    case srdl => exact completes_setPair rfl heven (hpair ▸ shiftRightL_eq (s.pair r1) n)

/-! ## Connectives of words -/

/-- An instruction that puts the result of a connective in register `r`; the condition code tells a zero result (R224). -/
theorem completes_putConnective {i : Instr} {s : State} {r : Reg} {v : Word} (he : exec i s = putConnective r v s) :
    Completes i s (RegResult s r v (if v = 0#32 then 0 else 1)) :=
  ⟨_, he, regResult_setReg_setCc s r v (ccZero v)⟩

/-- Settles O33: both forms of an instruction end alike, the operand coming from a register or from readable storage. -/
theorem connectsWords : Obligations.ConnectsWords := by
  intro s r1 r2 x2 b2 d2 a x y w nz
  refine ⟨?nr, ?or, ?xr, fun hq hr => ⟨?n, ?o, ?x⟩⟩
  case nr => exact completes_putConnective rfl
  case or => exact completes_putConnective rfl
  case xr => exact completes_putConnective rfl
  case n => exact completes_putConnective (withWord_quiet hq hr _ _)
  case o => exact completes_putConnective (withWord_quiet hq hr _ _)
  case x => exact completes_putConnective (withWord_quiet hq hr _ _)

end Sys2Proof.Machine
end

section
/-! PROOFS.
The branches that write a general register (spec/43_branching.md): each ends by putting the count or the sum in the register
and then branching on a condition. One lemma says what this ending leaves; an instruction's part of a statement is that lemma
with the address it goes on at.
-/
namespace Sys2Proof.Machine

/-! ## Writing a register and branching -/

/-- A branch that is not taken leaves the updated instruction address (R260). -/
theorem State.branchIf_eq (s : State) (c : Bool) (t : Addr) :
    s.branchIf c t = s.setIa (if c then t else s.psw.ia) := by
  cases c
  case false => rfl
  case true => rfl

theorem branchResult_setReg_setIa (s : State) (r : Reg) (v : Word) (a : Addr) :
    BranchResult s (some (r, v)) a ((s.setReg r v).setIa a) := by
  refine ⟨fun x hx => ?written, rfl, fun q hq => ?others, rfl, fun _ => rfl, rfl⟩
  case written =>
    obtain rfl := Option.some.inj hx
    exact State.reg_setReg_self s r v
  case others => exact State.reg_setReg_ne s v (by simpa using hq)

/-- An instruction that writes general register `r` and then branches to `t` or goes on, which leaves `a` as the instruction
address. -/
theorem completes_setReg_branchIf {i : Instr} {s : State} {r : Reg} {v : Word} {c : Bool} {t a : Addr}
    (he : exec i s = .next ((s.setReg r v).branchIf c t)) (ha : (if c then t else s.psw.ia) = a) :
    Completes i s (BranchResult s (some (r, v)) a) := by
  rw [State.branchIf_eq] at he
  subst ha
  exact ⟨_, he, branchResult_setReg_setIa s r v _⟩

/-- A choice on a condition that says when to branch, as the choice on the one that says when not to. -/
theorem ite_of_iff_not {α : Type} {c : Bool} {p : Prop} [Decidable p] (h : c = true ↔ ¬p) (x y : α) :
    (if c then x else y) = if p then y else x := by
  rw [if_congr h rfl rfl, ite_not]

/-! ## The comparand of a branch on index -/

theorem oddOf_odd {r : Reg} (h : evenReg r = false) : oddOf r = r := by
  revert r; decide

/-- The comparand is one after R3 or R3 itself, whichever is odd (R268). -/
theorem oddOf_eq (r : Reg) : oddOf r = if evenReg r then r + 1#4 else r := by
  split
  case isTrue h => exact oddOf_even h
  case isFalse h => exact oddOf_odd (Bool.eq_false_iff.2 h)

theorem State.indexHigh_iff (s : State) (r1 r3 : Reg) :
    s.indexHigh r1 r3 = true ↔
      (s.reg (if evenReg r3 then r3 + 1#4 else r3)).toInt < (s.reg r1 + s.reg r3).toInt := by
  rw [← oddOf_eq]
  exact decide_eq_true_iff

/-! ## Branch on count and on index -/

/-- Settles O41: each instruction writes its register and branches on a condition over the state before it; what is left of
each part is that the condition is the stated one. -/
theorem branchesOnCountAndIndex : Obligations.BranchesOnCountAndIndex := by
  intro s r1 r2 r3 x2 b2 d2 count sum high
  have hcount : (count != 0#32) = true ↔ ¬count = 0#32 := bne_iff_ne
  have hboth : (count != 0#32 && r2 != 0#4) = true ↔ ¬(count = 0#32 ∨ r2 = 0#4) := by
    rw [Bool.and_eq_true, hcount, bne_iff_ne, not_or]
  have hhigh : s.indexHigh r1 r3 = true ↔ high := s.indexHigh_iff r1 r3
  have hlow : (!s.indexHigh r1 r3) = true ↔ ¬high := by rw [Bool.not_eq_true', ← hhigh, Bool.not_eq_true]
  refine ⟨?bct, ?bctr, ?bxh, ?bxle⟩
  case bct => exact completes_setReg_branchIf rfl (ite_of_iff_not hcount _ _)
  case bctr => exact completes_setReg_branchIf rfl (ite_of_iff_not hboth _ _)
  case bxh => exact completes_setReg_branchIf rfl (if_congr hhigh rfl rfl)
  case bxle => exact completes_setReg_branchIf rfl (ite_of_iff_not hlow _ _)

end Sys2Proof.Machine
end

section
/-! PROOFS.
The short precision instructions (spec/45_short_precision.md) and NORMALIZE. A short instruction ends in one of four ways: it
writes bits 16-31 of a register, does so and sets the condition code, puts an arithmetic result there, or only sets the
condition code. Each ending has one lemma, whatever the form that brings the second operand. NORMALIZE is an induction over
its places.
-/
namespace Sys2Proof.Machine

/-! ## Loads -/

/-- An instruction that writes bits 16-31 of general register `r` and the condition code. -/
theorem completes_setLo_setCc {i : Instr} {s : State} {r : Reg} {z v : Half} {c d : Cc}
    (he : exec i s = .next ((s.setLo r z).setCc c)) (hz : z = v) (hc : c = d) :
    Completes i s (LoResult s r v d) := by
  subst hz hc
  exact ⟨_, he, loResult_setLo_setCc s r z c⟩

/-- Settles O27: each instruction writes its short operand, or its negative absolute value, and the sign of what it wrote is
the condition code of those that set one. -/
theorem loadsShort : Obligations.LoadsShort := by
  intro s r1 r2 x2 b2 d2 i2 a v m
  refine ⟨?lsr, ?lsi, ?ltsr, ?lnsr, fun hq hr => ⟨?ls, ?lts⟩⟩
  case lsr => exact completes_setLo rfl rfl
  case lsi => exact completes_setLo rfl rfl
  case ltsr => exact completes_setLo_setCc rfl rfl (ccS_eq v)
  case lnsr => exact completes_setLo_setCc rfl (negAbs_eq v) (ccS_negAbs (by decide) v)
  case ls => exact completes_setLo (withHalf_quiet hq hr _ _) rfl
  case lts => exact completes_setLo_setCc (withHalf_quiet hq hr _ _) rfl (ccS_eq (s.half a))

/-! ## Adds and subtracts -/

/-- An instruction that puts the exact integer `x`, narrowed to the halfword `v`, in bits 16-31 of register `r` (R331). -/
theorem endsArith_putArithLo {i : Instr} {s : State} {r : Reg} {z : Half × Bool} {x : Int} {v : Half}
    (he : exec i s = putArithLo r z s) (hz : z = narrow 16 x) (hv : (narrow 16 x).1 = v) :
    EndsArith i s 16 x (LoResult s r v) := by
  subst hz hv
  exact endsArith_of_finish (by decide) he (fun c => loResult_setLo_setCc s r _ c) rfl

/-- Narrowing a word to a halfword keeps its right half, whether it fits or not (R348). -/
theorem narrow_fst_word (w : Word) : (narrow 16 w.toInt).1 = w.extractLsb' 0 16 := by
  show w.signExtend 16 = w.extractLsb' 0 16
  rw [BitVec.signExtend_eq_setWidth_of_le w (by decide), BitVec.setWidth_eq_extractLsb' (by decide)]

/-- Settles O28: each instruction narrows its exact result to 16 bits, and the overflow is that of the narrowing. -/
theorem addsShort : Obligations.AddsShort := by
  intro s r1 r2 x2 b2 d2 i2 a x y h
  refine ⟨?asr, ?asi, ?ssr, ?ssi, ?lcsr, ?lpsr, ?lfsr, fun hq hr => ⟨?as, ?ss⟩⟩
  case asr => exact endsArith_putArithLo rfl rfl (narrow_fst_add x y)
  case asi => exact endsArith_putArithLo rfl rfl (narrow_fst_add x i2)
  case ssr => exact endsArith_putArithLo rfl rfl (narrow_fst_sub x y)
  case ssi => exact endsArith_putArithLo rfl rfl (narrow_fst_sub x i2)
  case lcsr => exact endsArith_putArithLo rfl (subS_zero y) (narrow_fst_neg y)
  case lpsr => exact endsArith_putArithLo rfl (absS_eq (by decide) y) (narrow_fst_abs y)
  case lfsr => exact endsArith_putArithLo rfl rfl (narrow_fst_word (s.reg r2))
  case as => exact endsArith_putArithLo (withHalf_quiet hq hr _ _) rfl (narrow_fst_add x h)
  case ss => exact endsArith_putArithLo (withHalf_quiet hq hr _ _) rfl (narrow_fst_sub x h)

/-! ## Comparisons and tests of bits -/

/-- Every bit that a mask selects is one when it selects no bit of the complement. -/
theorem and_eq_right_iff_and_not {w : Nat} (v mask : BitVec w) : v &&& mask = mask ↔ mask &&& ~~~v = 0#w := by
  simp only [BitVec.eq_of_getElem_eq_iff, BitVec.getElem_and, BitVec.getElem_not, BitVec.getElem_zero]
  refine forall₂_congr fun k hk => ?_
  cases v[k] <;> cases mask[k] <;> decide

/-- An instruction that tests the bits of `v` that a mask selects (R378). -/
theorem completes_ccMask {i : Instr} {s : State} {v mask : Half} (he : exec i s = .next (s.setCc (ccMask v mask))) :
    Completes i s (CcResult s (if mask &&& v = 0#16 then 0 else if mask &&& ~~~v = 0#16 then 3 else 1)) := by
  have hcc : ccMask v mask = if mask &&& v = 0#16 then 0 else if mask &&& ~~~v = 0#16 then 3 else 1 := by
    rw [ccMask, if_congr (and_eq_right_iff_and_not v mask) rfl rfl, BitVec.and_comm v mask]
    rfl
  rw [← hcc]
  exact ⟨_, he, ccResult_setCc s (ccMask v mask)⟩

/-- Settles O29: every comparison is that of two integers, the signed or the unsigned values of the short operands, and TB
and TBI test the register under a mask from storage or from the instruction. -/
theorem comparesShort : Obligations.ComparesShort := by
  intro s r1 r2 x2 b2 d2 i2 a x y h tested
  refine ⟨?csr, ?csi, ?clsr, ?clsi, ?tbi, fun hq hr => ⟨?cs, ?cls, ?tb⟩⟩
  case csr => exact completes_ccCompare rfl
  case csi => exact completes_ccCompare rfl
  case clsr => exact completes_ccCompare rfl
  case clsi => exact completes_ccCompare rfl
  case tbi => exact completes_ccMask rfl
  case cs => exact completes_ccCompare (withHalf_quiet hq hr _ _)
  case cls => exact completes_ccCompare (withHalf_quiet hq hr _ _)
  case tb => exact completes_ccMask (withHalf_quiet hq hr _ _)

/-! ## Connectives -/

/-- An instruction that puts the result of a connective in bits 16-31 of register `r`; the condition code tells a zero result
(R364). -/
theorem completes_putConnectiveLo {i : Instr} {s : State} {r : Reg} {v : Half}
    (he : exec i s = putConnectiveLo r v s) : Completes i s (LoResult s r v (if v = 0#16 then 0 else 1)) :=
  completes_setLo_setCc he rfl rfl

/-- Settles O30: all forms of a connective end alike, the operand coming from a register, the instruction or readable
storage. -/
theorem connectsShort : Obligations.ConnectsShort := by
  intro s r1 r2 x2 b2 d2 i2 a x y h nz
  refine ⟨?nsr, ?nsi, ?osr, ?osi, ?xsr, ?xsi, fun hq hr => ⟨?ns, ?os, ?xs⟩⟩
  case nsr => exact completes_putConnectiveLo rfl
  case nsi => exact completes_putConnectiveLo rfl
  case osr => exact completes_putConnectiveLo rfl
  case osi => exact completes_putConnectiveLo rfl
  case xsr => exact completes_putConnectiveLo rfl
  case xsi => exact completes_putConnectiveLo rfl
  case ns => exact completes_putConnectiveLo (withHalf_quiet hq hr _ _)
  case os => exact completes_putConnectiveLo (withHalf_quiet hq hr _ _)
  case xs => exact completes_putConnectiveLo (withHalf_quiet hq hr _ _)

/-! ## NORMALIZE -/

/-- A word whose bits 0 and 1 agree uses at most 31 of its bits. -/
theorem toInt_range_of_signs_agree {v : Word} (h : v.getLsbD 31 = v.getLsbD 30) :
    -(2 ^ 30) ≤ v.toInt ∧ v.toInt < 2 ^ 30 := by
  have hv := v.isLt
  simp only [BitVec.getLsbD, Nat.testBit_eq_decide_div_mod_eq, decide_eq_decide] at h
  rw [BitVec.toInt_eq_toNat_cond]
  split <;> omega

/-- Where bits 0 and 1 agree, keeping the sign does not change the shifted word. -/
theorem normalizeOnce_eq_shiftLeft {v : Word} (h : v.getLsbD 31 = v.getLsbD 30) : normalizeOnce v = v <<< 1 := by
  apply BitVec.eq_of_getLsbD_eq
  intro k hk
  by_cases htop : k = 31
  · subst htop
    simpa [normalizeOnce, shiftLeftA, signBit] using h
  · have hs : (signBit 32)[k] = false := by
      simp only [signBit, BitVec.getElem_twoPow, decide_eq_false_iff_not]
      omega
    simp [normalizeOnce, shiftLeftA, hs, hk]

/-- One place of the shift doubles the number while bits 0 and 1 agree. -/
theorem toInt_normalizeOnce {v : Word} (h : v.getLsbD 31 = v.getLsbD 30) :
    (normalizeOnce v).toInt = v.toInt * 2 := by
  have hr : InRange 32 (v.toInt * 2) := by
    obtain ⟨hlow, hhigh⟩ := toInt_range_of_signs_agree h
    simp only [InRange]
    omega
  have hd : v <<< 1 = BitVec.ofInt 32 (v.toInt * 2) := by
    rw [BitVec.ofInt_mul, BitVec.ofInt_toInt, BitVec.shiftLeft_eq_mul_twoPow]
    rfl
  rw [normalizeOnce_eq_shiftLeft h, hd, toInt_ofInt_inRange (by decide) hr]

/-- `w` is the word `v` normalized by a shift of `k` places: exact, normalized unless zero, and no shift for zero (R363). -/
def NormalizedBy (v w : Word) (k : Nat) : Prop :=
  w.toInt = v.toInt * 2 ^ k ∧ (v = 0#32 → k = 0) ∧ (v ≠ 0#32 → w.getLsbD 31 ≠ w.getLsbD 30)

theorem toInt_ne_zero {v : Word} (h : v ≠ 0#32) : v.toInt ≠ 0 := by
  simpa using BitVec.toInt_ne.2 h

/-- A word that stops the shift is normalized as it is. -/
theorem normalizedBy_zero {v : Word} (h : ¬(v ≠ 0#32 ∧ v.getLsbD 31 = v.getLsbD 30)) : NormalizedBy v v 0 :=
  ⟨by simp, fun _ => rfl, fun hv e => h ⟨hv, e⟩⟩

/-- A place shifted before the others. -/
theorem NormalizedBy.succ {v w : Word} {k : Nat} (hv : v ≠ 0#32) (h : v.getLsbD 31 = v.getLsbD 30)
    (hw : NormalizedBy (normalizeOnce v) w k) : NormalizedBy v w (k + 1) := by
  obtain ⟨hexact, _, hbits⟩ := hw
  have hd := toInt_normalizeOnce h
  refine ⟨?exact, fun e => absurd e hv, fun _ => hbits ?nonzero⟩
  case exact => rw [hexact, hd, pow_succ', mul_assoc]
  case nonzero =>
    intro e
    have := toInt_ne_zero hv
    rw [e] at hd
    simp at hd
    omega

/-- The shift normalizes when the places allowed suffice to move the highest significant bit out of the word: this is what
makes the bound on the places enough, since each place doubles the number. -/
theorem normalizeFrom_normalizes (fuel : Nat) (v : Word) (n : Nat)
    (hfuel : v ≠ 0#32 → 2 ^ 32 ≤ v.toInt.natAbs * 2 ^ fuel) :
    ∃ k, (normalizeFrom fuel v n).2 = n + k ∧ NormalizedBy v (normalizeFrom fuel v n).1 k := by
  induction fuel generalizing v n with
  | zero =>
    have hv : v = 0#32 := by
      by_contra hv
      have hbig := hfuel hv
      have hlow := v.le_toInt
      have hhigh := v.toInt_lt
      omega
    exact ⟨0, rfl, normalizedBy_zero fun h => h.1 hv⟩
  | succ fuel ih =>
    rw [normalizeFrom]
    split
    case isTrue h =>
      obtain ⟨hv, hagree⟩ := h
      have hnext : 2 ^ 32 ≤ (normalizeOnce v).toInt.natAbs * 2 ^ fuel := by
        rw [toInt_normalizeOnce hagree, Int.natAbs_mul, mul_assoc]
        exact pow_succ' 2 fuel ▸ hfuel hv
      obtain ⟨k, hcount, hnorm⟩ := ih (normalizeOnce v) (n + 1) fun _ => hnext
      exact ⟨k + 1, by omega, hnorm.succ hv hagree⟩
    case isFalse h => exact ⟨0, rfl, normalizedBy_zero h⟩

theorem normalizeWord_normalizes (v : Word) : NormalizedBy v (normalizeWord v).1 (normalizeWord v).2 := by
  obtain ⟨k, hcount, hnorm⟩ := normalizeFrom_normalizes 32 v 0 fun hv => by
    have := toInt_ne_zero hv
    omega
  rw [Nat.zero_add] at hcount
  rw [normalizeWord, hcount]
  exact hnorm

/-- No shift is longer than 31 places, since the result is still a word. -/
theorem NormalizedBy.le_31 {v w : Word} {k : Nat} (h : NormalizedBy v w k) : k ≤ 31 := by
  obtain ⟨hexact, hzero, _⟩ := h
  by_cases hv : v = 0#32
  · rw [hzero hv]
    decide
  · have hone : 1 ≤ v.toInt.natAbs := Int.natAbs_pos.2 (toInt_ne_zero hv)
    have hword : w.toInt.natAbs ≤ 2 ^ 31 := by
      have hlow := w.le_toInt
      have hhigh := w.toInt_lt
      omega
    apply (Nat.pow_le_pow_iff_right (a := 2) (by decide)).1
    calc 2 ^ k ≤ v.toInt.natAbs * 2 ^ k := Nat.le_mul_of_pos_left _ hone
      _ = w.toInt.natAbs := by rw [hexact, Int.natAbs_mul, Int.natAbs_pow]; rfl
      _ ≤ 2 ^ 31 := hword

/-- A shift that is exact keeps the sign. -/
theorem ccOfSign_mul_two_pow (x : Int) (k : Nat) : ccOfSign (x * 2 ^ k) = ccOfSign x := by
  have hpos : (0 : Int) < 2 ^ k := by positivity
  have hneg : x * 2 ^ k < 0 ↔ x < 0 := by rw [← not_le, ← not_le, mul_nonneg_iff_of_pos_right hpos]
  simp only [ccOfSign, hneg, mul_eq_zero_iff_right hpos.ne']

/-- Settles O32: the shift normalizes the operand exactly, and the first operand register is written after the count. -/
theorem normalizesWord : Obligations.NormalizesWord := by
  intro s r1 r2
  have hnorm := normalizeWord_normalizes (s.reg r1)
  have hle := hnorm.le_31
  obtain ⟨hexact, hzero, hbits⟩ := hnorm
  have hcc : ccS (normalizeWord (s.reg r1)).1 = ccOfSign (s.reg r1).toInt := by
    rw [ccS_eq, hexact, ccOfSign_mul_two_pow]
  refine ⟨(normalizeWord (s.reg r1)).2, _, rfl, hle, ?exact, hzero, ?bits, ?count, ?psw, ?others, rfl, fun _ => rfl, rfl⟩
  case exact => rw [State.setCc_reg, State.reg_setReg_self, hexact]
  case bits => rwa [State.setCc_reg, State.reg_setReg_self]
  case count =>
    intro hne
    rw [State.setCc_reg, State.reg_setReg_ne _ _ hne, State.reg_setReg_self]
  case psw => rw [← hcc]; rfl
  case others =>
    intro q hq
    simp only [List.mem_cons, List.not_mem_nil, or_false, not_or] at hq
    rw [State.setCc_reg, State.reg_setReg_ne _ _ hq.1, State.reg_setReg_ne _ _ hq.2]

end Sys2Proof.Machine
end

section
-- The check bounds memory: the proofs below are checked one after the other, each when all before it is done.
set_option Elab.async false

section
/-! PROOFS.
The encoder and the decoder (spec/30_encoding.md). Each layout of fields has one lemma: the bytes of an instruction of that
layout decode to it, provided its operation code selects a row of the layout and the right length. The round trip of an
instruction is the lemma of its layout at its operation code.
-/
namespace Sys2Proof

/-- With all options present, the operation code selects the row, and instructions of `n` halfwords. -/
structure Selects (op : Byte) (row : OpRow) (n : Nat) : Prop where
  row_eq : opSelect Options.all op = .ok row
  length_eq : instrLength true op = n

/-! ## Fields -/

@[simp] theorem hi4_byteOf (a b : BitVec 4) : hi4 (byteOf a b) = a :=
  BitVec.extractLsb'_append_eq_left

@[simp] theorem lo4_byteOf (a b : BitVec 4) : lo4 (byteOf a b) = b :=
  BitVec.extractLsb'_append_eq_right

@[simp] theorem hi4_baseByte (b : Reg) (d : Disp) : hi4 (baseByte b d) = b :=
  BitVec.extractLsb'_append_eq_left

/-- The two parts of a displacement, joined (R102). -/
@[simp] theorem dispOf_baseByte_dispByte (b : Reg) (d : Disp) : dispOf (baseByte b d) (dispByte d) = d := by
  have hlo : lo4 (baseByte b d) = d.extractLsb' 8 4 := BitVec.extractLsb'_append_eq_right
  rw [dispOf, hlo, dispByte, BitVec.extractLsb'_append_extractLsb'_eq_extractLsb' (by omega)]
  exact BitVec.extractLsb'_eq_self

/-- The two bytes of an immediate halfword, joined (R106). -/
@[simp] theorem halfOf_bytes (v : Half) : halfOf (v.extractLsb' 8 8) (v.extractLsb' 0 8) = v := by
  rw [halfOf, BitVec.extractLsb'_append_extractLsb'_eq_extractLsb' (by omega)]
  exact BitVec.extractLsb'_eq_self

/-! ## The fields of a layout -/

section
variable (op a b c d e : Byte)

theorem Build.fill_r (mk : Reg → Instr) : (Build.r mk).fill [op, a] = some (mk (hi4 a)) := rfl

theorem Build.fill_r2 (mk : Reg → Instr) : (Build.r2 mk).fill [op, a] = some (mk (lo4 a)) := rfl

theorem Build.fill_i8 (mk : Byte → Instr) : (Build.i8 mk).fill [op, a] = some (mk a) := rfl

theorem Build.fill_rr (mk : Reg → Reg → Instr) : (Build.rr mk).fill [op, a] = some (mk (hi4 a) (lo4 a)) := rfl

theorem Build.fill_rx (mk : Reg → Reg → Reg → Disp → Instr) :
    (Build.rx mk).fill [op, a, b, c] = some (mk (hi4 a) (lo4 a) (hi4 b) (dispOf b c)) := rfl

theorem Build.fill_rx0 (mk : Reg → Reg → Disp → Instr) :
    (Build.rx0 mk).fill [op, a, b, c] = some (mk (lo4 a) (hi4 b) (dispOf b c)) := rfl

theorem Build.fill_rsh (mk : Reg → Reg → Disp → Instr) :
    (Build.rsh mk).fill [op, a, b, c] = some (mk (hi4 a) (hi4 b) (dispOf b c)) := rfl

theorem Build.fill_si (mk : Byte → Reg → Disp → Instr) :
    (Build.si mk).fill [op, a, b, c] = some (mk a (hi4 b) (dispOf b c)) := rfl

theorem Build.fill_si0 (mk : Reg → Disp → Instr) : (Build.si0 mk).fill [op, a, b, c] = some (mk (hi4 b) (dispOf b c)) := rfl

theorem Build.fill_ri (mk : Reg → Half → Instr) : (Build.ri mk).fill [op, a, b, c] = some (mk (hi4 a) (halfOf b c)) := rfl

theorem Build.fill_ss (mk : Byte → Reg → Disp → Reg → Disp → Instr) :
    (Build.ss mk).fill [op, a, b, c, d, e] = some (mk a (hi4 b) (dispOf b c) (hi4 d) (dispOf d e)) := rfl

theorem Build.fill_ss2 (mk : BitVec 4 → BitVec 4 → Reg → Disp → Reg → Disp → Instr) :
    (Build.ss2 mk).fill [op, a, b, c, d, e] = some (mk (hi4 a) (lo4 a) (hi4 b) (dispOf b c) (hi4 d) (dispOf d e)) := rfl

end

/-! ## One lemma per layout -/

/-- The bytes of an instruction decode to it when its operation code selects a row that they fill, and the length they have
is the length that the operation code gives. -/
theorem decode_of_fill {o : Options} {op : Byte} {bs rest : List Byte} {row : OpRow} {i : Instr}
    (hsel : opSelect o op = .ok row) (hn : (op :: bs).length = 2 * instrLength o.short op)
    (hfill : row.build.fill (op :: bs) = some i) : decode o (op :: bs ++ rest) = .ok (i, rest) := by
  have htake : (op :: bs ++ rest).take (2 * instrLength o.short op) = op :: bs := by rw [← hn, List.take_left]
  have hdrop : (op :: bs ++ rest).drop (2 * instrLength o.short op) = rest := by rw [← hn, List.drop_left]
  rw [List.cons_append] at htake hdrop ⊢
  simp only [decode, hsel, htake, hdrop, hfill]

section
variable {op : Byte} {need : Need} (rest : List Byte)

theorem decode_r {mk : Reg → Instr} (h : Selects op ⟨op, need, .r mk⟩ 1) (r1 : Reg) :
    decode Options.all (encRR op r1 0 ++ rest) = .ok (mk r1, rest) :=
  decode_of_fill h.row_eq (by rw [Options.all, h.length_eq]; rfl) (by simp [Build.fill_r])

theorem decode_r2 {mk : Reg → Instr} (h : Selects op ⟨op, need, .r2 mk⟩ 1) (r2 : Reg) :
    decode Options.all (encRR op 0 r2 ++ rest) = .ok (mk r2, rest) :=
  decode_of_fill h.row_eq (by rw [Options.all, h.length_eq]; rfl) (by simp [Build.fill_r2])

theorem decode_i8 {mk : Byte → Instr} (h : Selects op ⟨op, need, .i8 mk⟩ 1) (v : Byte) :
    decode Options.all ([op, v] ++ rest) = .ok (mk v, rest) :=
  decode_of_fill h.row_eq (by rw [Options.all, h.length_eq]; rfl) (by simp [Build.fill_i8])

theorem decode_rr {mk : Reg → Reg → Instr} (h : Selects op ⟨op, need, .rr mk⟩ 1) (r1 r2 : Reg) :
    decode Options.all (encRR op r1 r2 ++ rest) = .ok (mk r1 r2, rest) :=
  decode_of_fill h.row_eq (by rw [Options.all, h.length_eq]; rfl) (by simp [Build.fill_rr])

theorem decode_rx {mk : Reg → Reg → Reg → Disp → Instr} (h : Selects op ⟨op, need, .rx mk⟩ 2) (r1 x2 b2 : Reg)
    (d2 : Disp) :
    decode Options.all (encRX op r1 x2 b2 d2 ++ rest) = .ok (mk r1 x2 b2 d2, rest) :=
  decode_of_fill h.row_eq (by rw [Options.all, h.length_eq]; rfl) (by simp [Build.fill_rx])

theorem decode_rx0 {mk : Reg → Reg → Disp → Instr} (h : Selects op ⟨op, need, .rx0 mk⟩ 2) (x2 b2 : Reg) (d2 : Disp) :
    decode Options.all (encRX op 0 x2 b2 d2 ++ rest) = .ok (mk x2 b2 d2, rest) :=
  decode_of_fill h.row_eq (by rw [Options.all, h.length_eq]; rfl) (by simp [Build.fill_rx0])

theorem decode_rsh {mk : Reg → Reg → Disp → Instr} (h : Selects op ⟨op, need, .rsh mk⟩ 2) (r1 b2 : Reg) (d2 : Disp) :
    decode Options.all (encRX op r1 0 b2 d2 ++ rest) = .ok (mk r1 b2 d2, rest) :=
  decode_of_fill h.row_eq (by rw [Options.all, h.length_eq]; rfl) (by simp [Build.fill_rsh])

theorem decode_si {mk : Byte → Reg → Disp → Instr} (h : Selects op ⟨op, need, .si mk⟩ 2) (i2 : Byte) (b1 : Reg)
    (d1 : Disp) :
    decode Options.all (encSI op i2 b1 d1 ++ rest) = .ok (mk i2 b1 d1, rest) :=
  decode_of_fill h.row_eq (by rw [Options.all, h.length_eq]; rfl) (by simp [Build.fill_si])

theorem decode_si0 {mk : Reg → Disp → Instr} (h : Selects op ⟨op, need, .si0 mk⟩ 2) (b1 : Reg) (d1 : Disp) :
    decode Options.all (encSI op 0 b1 d1 ++ rest) = .ok (mk b1 d1, rest) :=
  decode_of_fill h.row_eq (by rw [Options.all, h.length_eq]; rfl) (by simp [Build.fill_si0])

theorem decode_ri {mk : Reg → Half → Instr} (h : Selects op ⟨op, need, .ri mk⟩ 2) (r1 : Reg) (i2 : Half) :
    decode Options.all (encRI op r1 i2 ++ rest) = .ok (mk r1 i2, rest) :=
  decode_of_fill h.row_eq (by rw [Options.all, h.length_eq]; rfl) (by simp [Build.fill_ri])

theorem decode_ss {mk : Byte → Reg → Disp → Reg → Disp → Instr}
    (h : Selects op ⟨op, need, .ss mk⟩ 3) (l : Byte) (b1 : Reg)
    (d1 : Disp) (b2 : Reg) (d2 : Disp) :
    decode Options.all (encSS op l b1 d1 b2 d2 ++ rest) = .ok (mk l b1 d1 b2 d2, rest) :=
  decode_of_fill h.row_eq (by rw [Options.all, h.length_eq]; rfl) (by simp [Build.fill_ss])

theorem decode_ss2 {mk : BitVec 4 → BitVec 4 → Reg → Disp → Reg → Disp → Instr}
    (h : Selects op ⟨op, need, .ss2 mk⟩ 3) (l1 l2 : BitVec 4)
    (b1 : Reg) (d1 : Disp) (b2 : Reg) (d2 : Disp) :
    decode Options.all (encSS op (byteOf l1 l2) b1 d1 b2 d2 ++ rest) = .ok (mk l1 l2 b1 d1 b2 d2, rest) :=
  decode_of_fill h.row_eq (by rw [Options.all, h.length_eq]; rfl) (by simp [Build.fill_ss2])

end

/-! ## The round trip -/

/-- Settles O1: an instruction decodes as the layout of its row says. -/
theorem decodeInvertsEncode : Obligations.DecodeInvertsEncode := by
  intro i rest
  cases i
  case spm => exact decode_r rest ⟨rfl, rfl⟩ _
  case bur => exact decode_r2 rest ⟨rfl, rfl⟩ _
  case svc => exact decode_i8 rest ⟨rfl, rfl⟩ _
  case balr | bctr | bcr | ssk | lfsr | lpr | lnr | ltr | lcr | nr | clr | or | xr | lr | cr | ar | sr | mr | dr | alr
      | slr | lcdr | ldr | cdr | adr | sdr | lper | lner | lter | lcer | her | ler | cer | aer | ser | mer | der | aur
      | sur | lpsr | lnsr | ltsr | lcsr | nsr | clsr | osr | xsr | lsr | csr | asr | ssr | msr | dsr | nrm | lhr =>
    exact decode_rr rest ⟨rfl, rfl⟩ _ _
  case sth | la | stc | ic | ex | bal | bct | bc | lh | ch | ah | sh | mh | ds | cvd | cvb | st | las | lts | as | n | cl
      | o | x | l | c | a | s | m | d | al | sl | std | cs | lt | xs | ns | cls | os | ld | cd | ad | sd | ste | ms | ss
      | ls | tb | le | ce | ae | se | me | de | au | su | bxh | bxle | stm | lm | tmrs | sio =>
    exact decode_rx rest ⟨rfl, rfl⟩ _ _ _ _
  case bu => exact decode_rx0 rest ⟨rfl, rfl⟩ _ _ _
  case srl | sll | sra | sla | srdl | sldl | srda | slda | srls | slls | sras | slas =>
    exact decode_rsh rest ⟨rfl, rfl⟩ _ _ _
  case diagnose | tm | mvi | ni | cli | oi | xi => exact decode_si rest ⟨rfl, rfl⟩ _ _ _
  case ssm | lpsw | ts => exact decode_si0 rest ⟨rfl, rfl⟩ _ _
  case osi | xsi | lsi | csi | asi | ssi | tbi | dsi | msi | nsi | clsi | lhi | chi | ahi | shi | mhi =>
    exact decode_ri rest ⟨rfl, rfl⟩ _ _
  case mvn | mvc | mvz | nc | clc | oc | xc | tr | trt => exact decode_ss rest ⟨rfl, rfl⟩ _ _ _ _ _
  case mvo | pack | unpk => exact decode_ss2 rest ⟨rfl, rfl⟩ _ _ _ _ _ _

/-- Settles O2: the words are those that the encoder gives for the instructions. -/
theorem decodesWrittenWords : Obligations.DecodesWrittenWords :=
  ⟨decodeInvertsEncode (.ar 7 9) [], decodeInvertsEncode (.st 3 10 14 0x12C#12) [],
    decodeInvertsEncode (.stm 14 12 13 0x00C#12) [], decodeInvertsEncode (.mvi 0xFF#8 0 0x010#12) [],
    decodeInvertsEncode (.mvc 0x03#8 0 0x500#12 0 0x510#12) [],
    decodeInvertsEncode (.pack 2 3 0 0x100#12 0 0x200#12) [], decodeInvertsEncode (.ahi 3 0xFFFE#16) [],
    decodeInvertsEncode (.asr 1 2) [], decodeInvertsEncode (.adr 4 6) [], decodeInvertsEncode (.aer 0 2) [],
    decodeInvertsEncode (.svc 0x2A#8) [], decodeInvertsEncode (.tmrs 3 5 0 0x980#12) [],
    decodeInvertsEncode (.ex 1 0 0 0x500#12) []⟩

end Sys2Proof
end

section
/-! PROOFS.
The promises of the whole machine that hold of every instruction (spec/60_exceptions.md section 9, spec/20_memory.md section 3):
what problem state cannot change, what protection keeps, and what of the invariant an instruction keeps. `Allowed s t` says all
of them at once; each way in which an instruction can end has one lemma, so that EXECUTE is treated once for all of them.
-/
namespace Sys2Proof.Machine

/-! ## Storage and keys -/

/-- Storage and keys are in canonical form, with nothing listed outside the storage of an installation that can exist. -/
def State.StorageOk (s : State) : Prop :=
  s.params.wf = true ∧ Memory.wf s.mem ∧ Keys.wf s.keys ∧
  (∀ c ∈ s.mem, c.1 < s.params.memSize) ∧ ∀ c ∈ s.keys, c.1 < s.params.memSize / 1024

theorem inv_iff (s : State) :
    s.Inv ↔ s.StorageOk ∧ s.inExecute = false ∧ (s.pendKey = true → s.pendIo = none) := by
  constructor
  · rintro ⟨hw, hm, hk, hmi, hki, hex, hpend⟩
    exact ⟨⟨hw, hm, hk, hmi, hki⟩, hex, hpend⟩
  · rintro ⟨⟨hw, hm, hk, hmi, hki⟩, hex, hpend⟩
    exact ⟨hw, hm, hk, hmi, hki, hex, hpend⟩

theorem Params.memSize_of_wf {p : Params} (h : p.wf = true) : 1024 ≤ p.memSize ∧ p.memSize ≤ 2 ^ 20 := by
  simp only [Params.wf, Bool.and_eq_true, decide_eq_true_eq] at h
  omega

theorem Params.layout_of_wf {p : Params} (h : p.wf = true) : p.layout.wf = true := by
  simp only [Params.wf, Bool.and_eq_true] at h
  exact h.2

/-- The lowest 1024 bytes are installed everywhere. -/
theorem State.installed_low {s : State} (h : s.params.wf = true) {a : Addr} {n : Nat} (ha : a.toNat + n ≤ 1024) :
    s.Installed a n := fun k hk => by
  have := (Params.memSize_of_wf h).1
  rw [BitVec.toNat_add, BitVec.toNat_ofNat]
  omega

theorem State.StorageOk.setBytes {s : State} (h : s.StorageOk) {a : Addr} {bs : List Byte}
    (hi : s.Installed a bs.length) : (s.setBytes a bs).StorageOk := by
  obtain ⟨hw, hm, hk, hmi, hki⟩ := h
  refine ⟨by rwa [State.setBytes_params], State.setBytes_wf a bs hm, by rwa [State.setBytes_keys], ?_, ?_⟩
  · rw [State.setBytes_params]
    exact State.setBytes_installed bs hi hmi
  · rwa [State.setBytes_params, State.setBytes_keys]

theorem State.StorageOk.operates {s t : State} (h : s.StorageOk) (ho : Operates s t) : t.StorageOk := by
  rw [State.StorageOk, ho.params, ho.keys]
  obtain ⟨hw, hm, hk, hmi, hki⟩ := h
  obtain ⟨-, -, hmem, hinst, -⟩ := ho
  exact ⟨hw, hmem hm, hk, hinst hmi, hki⟩

theorem State.StorageOk.setKey {s : State} (h : s.StorageOk) {b : Nat} (k : BitVec 2)
    (hb : b < s.params.memSize / 1024) : (s.setKey b k).StorageOk := by
  obtain ⟨hw, hm, hk, hmi, hki⟩ := h
  refine ⟨hw, hm, State.setKey_wf b k hk, hmi, fun c hc => ?_⟩
  rcases mem_sparseSet hc with hc | hc
  · rw [hc]; exact hb
  · exact hki c hc

theorem IntClass.oldLoc_low (c : IntClass) : c.oldLoc.toNat + 8 ≤ 1024 := by
  cases c <;> decide

theorem State.StorageOk.interrupt {s : State} (h : s.StorageOk) (c : IntClass) (code : Half) (ilc : BitVec 2) :
    (s.interrupt c code ilc).StorageOk := by
  have ha : s.access.StorageOk := h.operates (operates_access s)
  have hsize := (Params.memSize_of_wf ha.1).1
  have hkey : (s.access.setKey 0 1#2).StorageOk := ha.setKey 1#2 (by omega)
  have hold : s.access.setKey 0 1#2 |>.Installed c.oldLoc 8 := State.installed_low hkey.1 c.oldLoc_low
  rw [State.interrupt, State.StorageOk, State.loadPsw_params, State.loadPsw_mem, State.loadPsw_keys]
  exact hkey.setBytes (bs := bytesOfDword (s.oldPsw c code ilc)) hold

/-! ## What an instruction may do -/

/-- What an instruction in problem state leaves, unless it ends in a program or supervisor-call interruption, and what such an
interruption changes (R290, R472, R541). -/
def Confined (s t : State) : Prop :=
  t.rtc = s.rtc ∧ t.intimer = s.intimer ∧ t.chanBusy = s.chanBusy ∧ t.burst = s.burst ∧ t.tse = s.tse ∧
  t.outbox = s.outbox ∧ t.deviceWords = s.deviceWords ∧
  ((t.keys = s.keys ∧ t.mode = s.mode ∧ t.psw.sm = s.psw.sm ∧ t.psw.key = s.psw.key ∧ t.psw.a = s.psw.a ∧
      t.psw.m = s.psw.m ∧ t.psw.w = s.psw.w ∧ t.psw.p = s.psw.p) ∨
    (t.key 0 = 1#2 ∧ (∀ b, b ≠ 0 → t.key b = s.key b) ∧ t.mode = .operating ∧
      (t.psw = Psw.unpack (t.dword 96) ∨ t.psw = Psw.unpack (t.dword 104))))

/-- The bytes protected against the CPU are kept that DMA spares or may not change, but for the locations of the old PSWs of
program and supervisor-call interruptions (R73, R484; D6, D8). -/
def KeepsProtected (s t : State) : Prop :=
  ∀ x : Addr, s.cpuProtected x = true → s.DmaSpares x ∨ s.dmaProtected x = true → x.toNat < 32 ∨ 48 ≤ x.toNat →
    t.byte x = s.byte x

/-- `t` is a state that an instruction started in `s` may end in. -/
structure Allowed (s t : State) : Prop where
  params : t.params = s.params
  env : t.env = s.env
  pendTimer : t.pendTimer = s.pendTimer
  pendKey : t.pendKey = s.pendKey
  pendIo : t.pendIo = s.pendIo
  inExecute : s.inExecute = false → t.inExecute = false
  storage : s.StorageOk → t.StorageOk
  bytes : KeepsProtected s t
  confined : s.psw.p = true → Confined s t

/-- Every next state that a meaning answers is allowed. -/
def Promises (s : State) (r : Result) : Prop := ∀ t, r = .next t → Allowed s t

theorem Operates.allowed {s t : State} (h : Operates s t) : Allowed s t := by
  have hframe := h.1
  have hbytes := h.2.1
  refine ⟨h.params, ?_, ?_, ?_, ?_, ?_, fun hs => hs.operates h, fun x hx hd _ => hbytes x hx hd, fun _ => ?_⟩
  case refine_6 =>
    rw [hframe]
    exact ⟨rfl, rfl, rfl, rfl, rfl, rfl, rfl, .inl ⟨rfl, rfl, rfl, rfl, rfl, rfl, rfl, rfl⟩⟩
  all_goals rw [hframe]
  exact id

/-- What is allowed after operations of the instruction is allowed. -/
theorem Operates.trans_allowed {s u t : State} (h : Operates s u) (k : Allowed u t) : Allowed s t := by
  have hu := h.allowed
  refine ⟨k.params.trans hu.params, k.env.trans hu.env, k.pendTimer.trans hu.pendTimer, k.pendKey.trans hu.pendKey,
    k.pendIo.trans hu.pendIo, fun hs => k.inExecute (hu.inExecute hs), fun hs => k.storage (hu.storage hs),
    fun x hx hd hl => ?bytes, fun hp => ?confined⟩
  case bytes =>
    rw [k.bytes x (by rw [h.cpuProtected, hx]) (hd.imp h.spares fun e => by rw [h.dmaProtected, e]) hl,
      hu.bytes x hx hd hl]
  case confined =>
    have hframe := h.1
    have hpsw : u.psw.p = true := by rw [hframe]; exact hp
    have hconf := k.confined hpsw
    unfold Confined at *
    rw [hframe] at hconf
    exact hconf

theorem promises_next {s t : State} (h : Allowed s t) : Promises s (.next t) := fun _ e => by
  cases e
  exact h

theorem promises_refused (s : State) (r : Refusal) : Promises s (.refused r) := fun _ e => by cases e

theorem Promises.after {s u : State} {r : Result} (h : Operates s u) (k : Promises u r) : Promises s r :=
  fun t e => h.trans_allowed (k t e)

/-- The old PSWs of program and supervisor-call interruptions lie at 32 to 47 (R474). -/
theorem oldLoc_between {c : IntClass} (hc : c = .program ∨ c = .supervisorCall) {x : Addr}
    (hx : x.toNat < 32 ∨ 48 ≤ x.toNat) (k : Nat) (hk : k < 8) : x ≠ c.oldLoc + BitVec.ofNat 20 k := by
  have hold : c.oldLoc.toNat = 32 ∨ c.oldLoc.toNat = 40 := by
    rcases hc with rfl | rfl
    · exact .inr rfl
    · exact .inl rfl
  rintro rfl
  rw [BitVec.toNat_add, BitVec.toNat_ofNat] at hx
  omega

/-- A program or supervisor-call interruption is allowed. -/
theorem allowed_interrupt (s : State) {c : IntClass} (hc : c = .program ∨ c = .supervisorCall) (code : Half)
    (ilc : BitVec 2) : Allowed s (s.interrupt c code ilc) := by
  refine ⟨by simp, by simp, by simp, by simp, by simp, by simp, fun hs => hs.interrupt c code ilc,
    fun x hx hd hl => ?bytes, fun _ => ?confined⟩
  case bytes =>
    rw [State.interrupt_byte_out _ _ _ _ _ (oldLoc_between hc hl), (operates_access s).2.1 x hx hd]
  case confined =>
    have hnew : (s.interrupt c code ilc).psw = Psw.unpack ((s.interrupt c code ilc).dword c.newLoc) := by
      rw [State.interrupt, State.loadPsw_psw_eq]
      exact congrArg _ (State.dword_congr fun k _ => (State.loadPsw_byte _ _ _).symm)
    refine ⟨by simp, by simp, by simp, by simp, by simp, by simp, by simp, .inr ⟨?_, fun b hb => ?_, by simp, ?_⟩⟩
    · rw [State.interrupt_key, if_pos rfl]
    · rw [State.interrupt_key, if_neg hb]
    · rcases hc with rfl | rfl
      · exact .inr hnew
      · exact .inl hnew

theorem promises_raise (e : ProgEx) (s : State) : Promises s (raise e s) :=
  promises_next (allowed_interrupt s (.inl rfl) e.code s.ilc)

/-- An instruction that ends as most do keeps the promises. -/
theorem Ends.promises {s : State} {r : Result} (h : Ends s r) : Promises s r := by
  rcases h with ⟨u, hu, rfl⟩ | ⟨e, u, hu, rfl⟩ | h
  · exact promises_next hu.allowed
  · exact (promises_raise e u).after hu
  · exact fun t e => absurd e (h t)

/-! ## The instructions that end in other ways -/

/-- In supervisor state an instruction may change the control state too: what is then left to keep. -/
theorem allowed_supervisor {s t : State} (hp : s.psw.p = false) (hparams : t.params = s.params) (henv : t.env = s.env)
    (htimer : t.pendTimer = s.pendTimer) (hkey : t.pendKey = s.pendKey) (hio : t.pendIo = s.pendIo)
    (hex : t.inExecute = s.inExecute) (hst : s.StorageOk → t.StorageOk) (hb : t.mem = s.mem) : Allowed s t :=
  ⟨hparams, henv, htimer, hkey, hio, fun h => hex.trans h, hst, fun x _ _ _ => by rw [State.byte, hb]; rfl,
    fun h => by rw [hp] at h; cases h⟩

/-- A privileged instruction is suppressed in problem state. -/
theorem promises_needSupervisor {s : State} {k : Result} (hk : s.psw.p = false → Promises s k) :
    Promises s (needSupervisor s k) := by
  unfold needSupervisor
  split
  · exact promises_raise .privileged s
  · rename_i hp
    exact hk (by simpa using hp)

theorem promises_afterControlCheck {s : State} {a : Addr} {k : Result} (hk : Promises s k) :
    Promises s (afterControlCheck s a k) := by
  unfold afterControlCheck
  split
  · exact promises_raise .addressing s
  · split
    · exact promises_raise .specification s
    · exact hk

theorem promises_execLpsw (b1 : Reg) (d1 : Disp) (s : State) : Promises s (execLpsw b1 d1 s) := by
  unfold execLpsw
  dsimp only
  split
  · exact promises_raise .addressing s
  · split
    · exact promises_raise .specification s
    · refine promises_needSupervisor fun hp => ?_
      split
      · exact promises_raise .specification s
      · have ho := operates_readDword s (s.ea b1 d1)
        have hp' : (s.readDword (s.ea b1 d1)).2.psw.p = false := by rw [ho.1]; exact hp
        exact Promises.after ho (promises_next (allowed_supervisor hp' rfl rfl rfl rfl rfl rfl id rfl))

theorem promises_execSsm (b1 : Reg) (d1 : Disp) (s : State) : Promises s (execSsm b1 d1 s) := by
  unfold execSsm afterLoad
  dsimp only
  split
  · refine promises_needSupervisor fun hp => Promises.after (operates_readByte s (s.ea b1 d1)) (promises_next ?_)
    have hp' : (s.readByte (s.ea b1 d1)).2.psw.p = false := by rw [(operates_readByte s _).1]; exact hp
    exact allowed_supervisor hp' rfl rfl rfl rfl rfl rfl id rfl
  · exact promises_raise .addressing s
  · exact promises_raise _ s

theorem promises_execSvc (code : Byte) (s : State) : Promises s (execSvc code s) :=
  promises_next (allowed_interrupt s (.inr rfl) _ _)

theorem promises_execSsk (r1 r2 : Reg) (s : State) : Promises s (execSsk r1 r2 s) := by
  refine promises_needSupervisor fun hp => ?_
  dsimp only
  split
  · exact promises_raise .addressing s
  · rename_i hb
    refine Promises.after (operates_access s) (promises_next ?_)
    refine allowed_supervisor (by simpa using hp) rfl rfl rfl rfl rfl rfl (fun hs => hs.setKey _ ?_) rfl
    have hsize := Params.memSize_of_wf hs.1
    have hwf := hs.1
    simp only [Params.wf, Bool.and_eq_true, beq_iff_eq] at hwf
    obtain ⟨⟨⟨⟨⟨hmod, -⟩, -⟩, -⟩, -⟩, -⟩ := hwf
    rw [State.access_params] at *
    omega

/-- Presenting a word to the CPU uses up a device word or a free value and nothing else (R305). -/
theorem State.directInput_frame (s : State) (cmd : Half) :
    (s.directInput cmd).2 =
      { s with deviceWords := (s.directInput cmd).2.deviceWords, drawn := (s.directInput cmd).2.drawn } := by
  unfold State.directInput
  split_ifs
  case neg => split <;> rfl
  all_goals rfl

theorem promises_startIo {s : State} (r1 r3 : Reg) (cmd : Half) (hp : s.psw.p = false) :
    Promises s (s.startIo r1 r3 cmd) := by
  unfold State.startIo
  split
  · exact promises_refused s _
  · exact promises_next (allowed_supervisor hp rfl rfl rfl rfl rfl rfl id rfl)
  · exact promises_next (allowed_supervisor hp rfl rfl rfl rfl rfl rfl id rfl)
  · split
    · exact promises_next (allowed_supervisor hp rfl rfl rfl rfl rfl rfl id rfl)
    · exact promises_next (allowed_supervisor hp rfl rfl rfl rfl rfl rfl id rfl)
  · split
    · exact promises_next (allowed_supervisor hp rfl rfl rfl rfl rfl rfl id rfl)
    · dsimp only
      rw [State.directInput_frame]
      exact promises_next (allowed_supervisor hp rfl rfl rfl rfl rfl rfl id rfl)

theorem promises_execSio (r1 r3 b2 : Reg) (d2 : Disp) (s : State) : Promises s (execSio r1 r3 b2 d2 s) :=
  promises_afterControlCheck <| promises_needSupervisor fun hp =>
    Promises.after (operates_readHalf s _) (promises_startIo r1 r3 _ (by rw [(operates_readHalf s _).1]; exact hp))

theorem promises_setTimer {s : State} (timer : Bool) (a : Addr) (r3 : Reg) (v : Word) (hp : s.psw.p = false) :
    Promises s (.next ((s.setTimer timer a).setReg r3 v)) := by
  have h1 := operates_readHalf s a
  have hp1 : (s.readHalf a).2.psw.p = false := by rw [h1.1]; exact hp
  unfold State.setTimer
  dsimp only
  split
  · exact Promises.after h1 (promises_next (allowed_supervisor hp1 rfl rfl rfl rfl rfl rfl id rfl))
  · have h2 := h1.trans (operates_readHalf (s.readHalf a).2 (a + 2#20))
    have hp2 : ((s.readHalf a).2.readHalf (a + 2#20)).2.psw.p = false := by rw [h2.1]; exact hp
    exact Promises.after h2 (promises_next (allowed_supervisor hp2 rfl rfl rfl rfl rfl rfl id rfl))

theorem promises_execTmrs (fn : BitVec 4) (r3 b2 : Reg) (d2 : Disp) (s : State) :
    Promises s (execTmrs fn r3 b2 d2 s) := by
  unfold execTmrs
  dsimp only
  split
  · exact promises_refused s _
  · refine promises_afterControlCheck ?_
    split
    · exact promises_raise .privileged s
    · rename_i hset
      split
      · exact promises_raise .addressing s
      · split
        · rename_i h
          rw [h, Bool.true_and, Bool.not_eq_true] at hset
          exact promises_setTimer _ _ r3 _ hset
        · exact promises_next (operates_setReg s r3 _).allowed

/-! ## EXECUTE -/

/-- Every subject instruction keeps the promises. -/
theorem promises_execSubject (s : State) : ∀ i : Instr, Promises s (execSubject i s)
  | .spm r1 => (ends_execSpm r1 s).promises
  | .balr r1 r2 => (ends_execBalr r1 r2 s).promises
  | .bctr r1 r2 => (ends_execBctr r1 r2 s).promises
  | .bcr m1 r2 => (ends_execBcr m1 r2 s).promises
  | .ssk r1 r2 => promises_execSsk r1 r2 s
  | .svc code => promises_execSvc code s
  | .lfsr r1 r2 => (ends_execLfsr r1 r2 s).promises
  | .lpr r1 r2 => (ends_execLpr r1 r2 s).promises
  | .lnr r1 r2 => (ends_execLnr r1 r2 s).promises
  | .ltr r1 r2 => (ends_execLtr r1 r2 s).promises
  | .lcr r1 r2 => (ends_execLcr r1 r2 s).promises
  | .nr r1 r2 => (ends_execNr r1 r2 s).promises
  | .clr r1 r2 => (ends_execClr r1 r2 s).promises
  | .or r1 r2 => (ends_execOr r1 r2 s).promises
  | .xr r1 r2 => (ends_execXr r1 r2 s).promises
  | .lr r1 r2 => (ends_execLr r1 r2 s).promises
  | .cr r1 r2 => (ends_execCr r1 r2 s).promises
  | .ar r1 r2 => (ends_execAr r1 r2 s).promises
  | .sr r1 r2 => (ends_execSr r1 r2 s).promises
  | .mr r1 r2 => (ends_execMr r1 r2 s).promises
  | .dr r1 r2 => (ends_execDr r1 r2 s).promises
  | .alr r1 r2 => (ends_execAlr r1 r2 s).promises
  | .slr r1 r2 => (ends_execSlr r1 r2 s).promises
  | .lcdr r1 r2 => (ends_execLcdr r1 r2 s).promises
  | .ldr r1 r2 => (ends_execLdr r1 r2 s).promises
  | .cdr r1 r2 => (ends_execCdr r1 r2 s).promises
  | .adr r1 r2 => (ends_execAdr r1 r2 s).promises
  | .sdr r1 r2 => (ends_execSdr r1 r2 s).promises
  | .lper r1 r2 => (ends_execLper r1 r2 s).promises
  | .lner r1 r2 => (ends_execLner r1 r2 s).promises
  | .lter r1 r2 => (ends_execLter r1 r2 s).promises
  | .lcer r1 r2 => (ends_execLcer r1 r2 s).promises
  | .her r1 r2 => (ends_execHer r1 r2 s).promises
  | .ler r1 r2 => (ends_execLer r1 r2 s).promises
  | .cer r1 r2 => (ends_execCer r1 r2 s).promises
  | .aer r1 r2 => (ends_execAer r1 r2 s).promises
  | .ser r1 r2 => (ends_execSer r1 r2 s).promises
  | .mer r1 r2 => (ends_execMer r1 r2 s).promises
  | .der r1 r2 => (ends_execDer r1 r2 s).promises
  | .aur r1 r2 => (ends_execAur r1 r2 s).promises
  | .sur r1 r2 => (ends_execSur r1 r2 s).promises
  | .sth r1 x2 b2 d2 => (ends_execSth r1 x2 b2 d2 s).promises
  | .la r1 x2 b2 d2 => (ends_execLa r1 x2 b2 d2 s).promises
  | .stc r1 x2 b2 d2 => (ends_execStc r1 x2 b2 d2 s).promises
  | .ic r1 x2 b2 d2 => (ends_execIc r1 x2 b2 d2 s).promises
  | .ex _ _ _ _ => (ends_raise .execute (.refl s)).promises
  | .bal r1 x2 b2 d2 => (ends_execBal r1 x2 b2 d2 s).promises
  | .bct r1 x2 b2 d2 => (ends_execBct r1 x2 b2 d2 s).promises
  | .bc m1 x2 b2 d2 => (ends_execBc m1 x2 b2 d2 s).promises
  | .lh r1 x2 b2 d2 => (ends_execLh r1 x2 b2 d2 s).promises
  | .ch r1 x2 b2 d2 => (ends_execCh r1 x2 b2 d2 s).promises
  | .ah r1 x2 b2 d2 => (ends_execAh r1 x2 b2 d2 s).promises
  | .sh r1 x2 b2 d2 => (ends_execSh r1 x2 b2 d2 s).promises
  | .mh r1 x2 b2 d2 => (ends_execMh r1 x2 b2 d2 s).promises
  | .ds r1 x2 b2 d2 => (ends_execDs r1 x2 b2 d2 s).promises
  | .cvd r1 x2 b2 d2 => (ends_execCvd r1 x2 b2 d2 s).promises
  | .cvb r1 x2 b2 d2 => (ends_execCvb r1 x2 b2 d2 s).promises
  | .st r1 x2 b2 d2 => (ends_execSt r1 x2 b2 d2 s).promises
  | .las r1 x2 b2 d2 => (ends_execLas r1 x2 b2 d2 s).promises
  | .lts r1 x2 b2 d2 => (ends_execLts r1 x2 b2 d2 s).promises
  | .as r1 x2 b2 d2 => (ends_execAs r1 x2 b2 d2 s).promises
  | .n r1 x2 b2 d2 => (ends_execN r1 x2 b2 d2 s).promises
  | .cl r1 x2 b2 d2 => (ends_execCl r1 x2 b2 d2 s).promises
  | .o r1 x2 b2 d2 => (ends_execO r1 x2 b2 d2 s).promises
  | .x r1 x2 b2 d2 => (ends_execX r1 x2 b2 d2 s).promises
  | .l r1 x2 b2 d2 => (ends_execL r1 x2 b2 d2 s).promises
  | .c r1 x2 b2 d2 => (ends_execC r1 x2 b2 d2 s).promises
  | .a r1 x2 b2 d2 => (ends_execA r1 x2 b2 d2 s).promises
  | .s r1 x2 b2 d2 => (ends_execS r1 x2 b2 d2 s).promises
  | .m r1 x2 b2 d2 => (ends_execM r1 x2 b2 d2 s).promises
  | .d r1 x2 b2 d2 => (ends_execD r1 x2 b2 d2 s).promises
  | .al r1 x2 b2 d2 => (ends_execAl r1 x2 b2 d2 s).promises
  | .sl r1 x2 b2 d2 => (ends_execSl r1 x2 b2 d2 s).promises
  | .std r1 x2 b2 d2 => (ends_execStd r1 x2 b2 d2 s).promises
  | .cs r1 x2 b2 d2 => (ends_execCs r1 x2 b2 d2 s).promises
  | .lt r1 x2 b2 d2 => (ends_execLt r1 x2 b2 d2 s).promises
  | .xs r1 x2 b2 d2 => (ends_execXs r1 x2 b2 d2 s).promises
  | .ns r1 x2 b2 d2 => (ends_execNs r1 x2 b2 d2 s).promises
  | .cls r1 x2 b2 d2 => (ends_execCls r1 x2 b2 d2 s).promises
  | .os r1 x2 b2 d2 => (ends_execOs r1 x2 b2 d2 s).promises
  | .ld r1 x2 b2 d2 => (ends_execLd r1 x2 b2 d2 s).promises
  | .cd r1 x2 b2 d2 => (ends_execCd r1 x2 b2 d2 s).promises
  | .ad r1 x2 b2 d2 => (ends_execAd r1 x2 b2 d2 s).promises
  | .sd r1 x2 b2 d2 => (ends_execSd r1 x2 b2 d2 s).promises
  | .ste r1 x2 b2 d2 => (ends_execSte r1 x2 b2 d2 s).promises
  | .ms r1 x2 b2 d2 => (ends_execMs r1 x2 b2 d2 s).promises
  | .ss r1 x2 b2 d2 => (ends_execSs r1 x2 b2 d2 s).promises
  | .bu x2 b2 d2 => (ends_execBu x2 b2 d2 s).promises
  | .ls r1 x2 b2 d2 => (ends_execLs r1 x2 b2 d2 s).promises
  | .tb r1 x2 b2 d2 => (ends_execTb r1 x2 b2 d2 s).promises
  | .le r1 x2 b2 d2 => (ends_execLe r1 x2 b2 d2 s).promises
  | .ce r1 x2 b2 d2 => (ends_execCe r1 x2 b2 d2 s).promises
  | .ae r1 x2 b2 d2 => (ends_execAe r1 x2 b2 d2 s).promises
  | .se r1 x2 b2 d2 => (ends_execSe r1 x2 b2 d2 s).promises
  | .me r1 x2 b2 d2 => (ends_execMe r1 x2 b2 d2 s).promises
  | .de r1 x2 b2 d2 => (ends_execDe r1 x2 b2 d2 s).promises
  | .au r1 x2 b2 d2 => (ends_execAu r1 x2 b2 d2 s).promises
  | .su r1 x2 b2 d2 => (ends_execSu r1 x2 b2 d2 s).promises
  | .ssm b1 d1 => promises_execSsm b1 d1 s
  | .lpsw b1 d1 => promises_execLpsw b1 d1 s
  | .diagnose i2 b1 d1 => (ends_execDiagnose i2 b1 d1 s).promises
  | .bxh r1 r3 b2 d2 => (ends_execBxh r1 r3 b2 d2 s).promises
  | .bxle r1 r3 b2 d2 => (ends_execBxle r1 r3 b2 d2 s).promises
  | .srl r1 b2 d2 => (ends_execSrl r1 b2 d2 s).promises
  | .sll r1 b2 d2 => (ends_execSll r1 b2 d2 s).promises
  | .sra r1 b2 d2 => (ends_execSra r1 b2 d2 s).promises
  | .sla r1 b2 d2 => (ends_execSla r1 b2 d2 s).promises
  | .srdl r1 b2 d2 => (ends_execSrdl r1 b2 d2 s).promises
  | .sldl r1 b2 d2 => (ends_execSldl r1 b2 d2 s).promises
  | .srda r1 b2 d2 => (ends_execSrda r1 b2 d2 s).promises
  | .slda r1 b2 d2 => (ends_execSlda r1 b2 d2 s).promises
  | .stm r1 r3 b2 d2 => (ends_execStm r1 r3 b2 d2 s).promises
  | .tm i2 b1 d1 => (ends_execTm i2 b1 d1 s).promises
  | .mvi i2 b1 d1 => (ends_execMvi i2 b1 d1 s).promises
  | .ts b1 d1 => (ends_execTs b1 d1 s).promises
  | .ni i2 b1 d1 => (ends_execNi i2 b1 d1 s).promises
  | .cli i2 b1 d1 => (ends_execCli i2 b1 d1 s).promises
  | .oi i2 b1 d1 => (ends_execOi i2 b1 d1 s).promises
  | .xi i2 b1 d1 => (ends_execXi i2 b1 d1 s).promises
  | .lm r1 r3 b2 d2 => (ends_execLm r1 r3 b2 d2 s).promises
  | .srls r1 b2 d2 => (ends_execSrls r1 b2 d2 s).promises
  | .slls r1 b2 d2 => (ends_execSlls r1 b2 d2 s).promises
  | .sras r1 b2 d2 => (ends_execSras r1 b2 d2 s).promises
  | .slas r1 b2 d2 => (ends_execSlas r1 b2 d2 s).promises
  | .tmrs fn r3 b2 d2 => promises_execTmrs fn r3 b2 d2 s
  | .sio r1 r3 b2 d2 => promises_execSio r1 r3 b2 d2 s
  | .osi r1 i2 => (ends_execOsi r1 i2 s).promises
  | .xsi r1 i2 => (ends_execXsi r1 i2 s).promises
  | .lsi r1 i2 => (ends_execLsi r1 i2 s).promises
  | .csi r1 i2 => (ends_execCsi r1 i2 s).promises
  | .asi r1 i2 => (ends_execAsi r1 i2 s).promises
  | .ssi r1 i2 => (ends_execSsi r1 i2 s).promises
  | .tbi r1 i2 => (ends_execTbi r1 i2 s).promises
  | .dsi r1 i2 => (ends_execDsi r1 i2 s).promises
  | .msi r1 i2 => (ends_execMsi r1 i2 s).promises
  | .nsi r1 i2 => (ends_execNsi r1 i2 s).promises
  | .clsi r1 i2 => (ends_execClsi r1 i2 s).promises
  | .lhi r1 i2 => (ends_execLhi r1 i2 s).promises
  | .chi r1 i2 => (ends_execChi r1 i2 s).promises
  | .ahi r1 i2 => (ends_execAhi r1 i2 s).promises
  | .shi r1 i2 => (ends_execShi r1 i2 s).promises
  | .mhi r1 i2 => (ends_execMhi r1 i2 s).promises
  | .lpsr r1 r2 => (ends_execLpsr r1 r2 s).promises
  | .lnsr r1 r2 => (ends_execLnsr r1 r2 s).promises
  | .ltsr r1 r2 => (ends_execLtsr r1 r2 s).promises
  | .lcsr r1 r2 => (ends_execLcsr r1 r2 s).promises
  | .nsr r1 r2 => (ends_execNsr r1 r2 s).promises
  | .clsr r1 r2 => (ends_execClsr r1 r2 s).promises
  | .osr r1 r2 => (ends_execOsr r1 r2 s).promises
  | .xsr r1 r2 => (ends_execXsr r1 r2 s).promises
  | .lsr r1 r2 => (ends_execLsr r1 r2 s).promises
  | .csr r1 r2 => (ends_execCsr r1 r2 s).promises
  | .asr r1 r2 => (ends_execAsr r1 r2 s).promises
  | .ssr r1 r2 => (ends_execSsr r1 r2 s).promises
  | .msr r1 r2 => (ends_execMsr r1 r2 s).promises
  | .dsr r1 r2 => (ends_execDsr r1 r2 s).promises
  | .bur r2 => (ends_execBur r2 s).promises
  | .nrm r1 r2 => (ends_execNrm r1 r2 s).promises
  | .lhr r1 r2 => (ends_execLhr r1 r2 s).promises
  | .mvn l b1 d1 b2 d2 => (ends_execMvn l b1 d1 b2 d2 s).promises
  | .mvc l b1 d1 b2 d2 => (ends_execMvc l b1 d1 b2 d2 s).promises
  | .mvz l b1 d1 b2 d2 => (ends_execMvz l b1 d1 b2 d2 s).promises
  | .nc l b1 d1 b2 d2 => (ends_execNc l b1 d1 b2 d2 s).promises
  | .clc l b1 d1 b2 d2 => (ends_execClc l b1 d1 b2 d2 s).promises
  | .oc l b1 d1 b2 d2 => (ends_execOc l b1 d1 b2 d2 s).promises
  | .xc l b1 d1 b2 d2 => (ends_execXc l b1 d1 b2 d2 s).promises
  | .tr l b1 d1 b2 d2 => (ends_execTr l b1 d1 b2 d2 s).promises
  | .trt l b1 d1 b2 d2 => (ends_execTrt l b1 d1 b2 d2 s).promises
  | .mvo l1 l2 b1 d1 b2 d2 => (ends_execMvo l1 l2 b1 d1 b2 d2 s).promises
  | .pack l1 l2 b1 d1 b2 d2 => (ends_execPack l1 l2 b1 d1 b2 d2 s).promises
  | .unpk l1 l2 b1 d1 b2 d2 => (ends_execUnpk l1 l2 b1 d1 b2 d2 s).promises

/-- A subject instruction but EXECUTE has its own meaning (R270). -/
theorem execSubject_eq_exec {i : Instr} (h : ∀ r1 x2 b2 d2, i ≠ .ex r1 x2 b2 d2) (s : State) :
    execSubject i s = exec i s := by
  cases i with
  | ex r1 x2 b2 d2 => exact absurd rfl (h r1 x2 b2 d2)
  | _ => rfl

/-- Leaving EXECUTE keeps the promises of the subject instruction, which started inside EXECUTE. -/
theorem Promises.leaveExecute {s : State} {r : Result} (h : Promises { s with inExecute := true } r) :
    Promises s (leaveExecute r) := by
  intro t e
  cases r with
  | next u =>
    cases e
    have hu := h u rfl
    exact ⟨hu.params, hu.env, hu.pendTimer, hu.pendKey, hu.pendIo, fun _ => rfl, hu.storage, hu.bytes, hu.confined⟩
  | fault r => cases e
  | refused r => cases e

theorem promises_runSubject (s : State) (r1 : Reg) (a : Addr) : Promises s (s.runSubject r1 a) := by
  unfold State.runSubject
  dsimp only
  split
  · exact promises_raise .addressing s
  · split
    · exact promises_raise .specification s
    · split
      · exact Promises.after (operates_access s) (promises_raise .addressing _)
      · have ho := operates_readHalves s a (s.lengthOf (s.access.byte a))
        split
        · exact Promises.after ho (promises_raise .operation _)
        · split
          · exact promises_refused s _
          · exact Promises.after ho (Promises.leaveExecute (promises_execSubject _ _))

theorem promises_execEx (r1 x2 b2 : Reg) (d2 : Disp) (s : State) : Promises s (execEx r1 x2 b2 d2 s) := by
  intro t e
  have h := promises_runSubject { s with inExecute := false, ilc := 2#2 } r1 _ t e
  exact ⟨h.params, h.env, h.pendTimer, h.pendKey, h.pendIo, fun _ => h.inExecute rfl, h.storage, h.bytes, h.confined⟩

/-- Every instruction keeps the promises. -/
theorem promises_exec (i : Instr) (s : State) : Promises s (exec i s) := by
  by_cases h : ∃ r1 x2 b2 d2, i = .ex r1 x2 b2 d2
  · obtain ⟨r1, x2, b2, d2, rfl⟩ := h
    exact promises_execEx r1 x2 b2 d2 s
  · rw [← execSubject_eq_exec fun r1 x2 b2 d2 e => h ⟨r1, x2, b2, d2, e⟩]
    exact promises_execSubject s i

/-! ## The promises -/

/-- Settles O56: what problem state confines is part of what every instruction is allowed. -/
theorem problemStateIsConfined : Obligations.ProblemStateIsConfined := by
  intro i s t hp he
  have h := promises_exec i s t he
  obtain ⟨hrtc, hint, hbusy, hburst, htse, hout, hdev, hends⟩ := h.confined hp
  exact ⟨hrtc, hint, h.pendTimer, h.pendKey, h.pendIo, hbusy, hburst, htse, hout, hdev, h.env, h.params, hends⟩

/-- Settles O57: what protection keeps is part of what every instruction is allowed. -/
theorem protectedStorageIsKept : Obligations.ProtectedStorageIsKept :=
  fun i s t he => (promises_exec i s t he).bytes

end Sys2Proof.Machine
end

section
/-! PROOFS.
The steps of the machine (spec/60_exceptions.md, spec/70_reset_and_hazards.md): every agent's move keeps the invariant of a
boundary. An instruction does so because it is allowed to do nothing else; each operation of the channel, of the operator and
of DMA has one lemma.
-/
namespace Sys2Proof.Machine

/-! ## The invariant of an installation -/

/-- `s` is a machine of the installation `p` that meets the invariant. -/
def State.InvOf (p : Params) (s : State) : Prop := s.Inv ∧ s.params = p

variable {p : Params} {s t : State}

theorem State.InvOf.storage (h : s.InvOf p) : s.StorageOk := ((inv_iff s).1 h.1).1
theorem State.InvOf.wf (h : s.InvOf p) : s.params.wf = true := h.storage.1

/-- Storage and keys may change if they stay in form; the other parts of the invariant stay as they are. -/
theorem State.InvOf.update (h : s.InvOf p) (hst : t.StorageOk) (hp : t.params = s.params)
    (hex : t.inExecute = s.inExecute) (hkey : t.pendKey = s.pendKey) (hio : t.pendIo = s.pendIo) : t.InvOf p := by
  obtain ⟨hinv, rfl⟩ := h
  obtain ⟨-, hx, hpend⟩ := (inv_iff s).1 hinv
  refine ⟨(inv_iff t).2 ⟨hst, hex.trans hx, fun e => ?_⟩, hp⟩
  rw [hio]
  exact hpend (hkey.symm.trans e)

theorem State.InvOf.operates (h : s.InvOf p) (ho : Operates s t) : t.InvOf p :=
  h.update (h.storage.operates ho) ho.params (by rw [ho.1]) (by rw [ho.1]) (by rw [ho.1])

theorem State.InvOf.allowed (h : s.InvOf p) (ha : Allowed s t) : t.InvOf p := by
  have hx := ((inv_iff s).1 h.1).2.1
  exact h.update (ha.storage h.storage) ha.params ((ha.inExecute hx).trans hx.symm) ha.pendKey ha.pendIo

theorem State.InvOf.setBytes (h : s.InvOf p) {a : Addr} {bs : List Byte} (hi : s.Installed a bs.length) :
    (s.setBytes a bs).InvOf p :=
  h.update (h.storage.setBytes hi) (by simp) (by simp) (by simp) (by simp)

theorem State.InvOf.setHalf (h : s.InvOf p) {a : Addr} (v : Half) (hi : s.Installed a 2) : (s.setHalf a v).InvOf p :=
  h.setBytes (bs := bytesOfHalf v) hi

theorem State.InvOf.writeHalf (h : s.InvOf p) {a : Addr} (v : Half) (hi : s.Installed a 2) :
    (s.writeHalf a v).InvOf p :=
  (h.operates (operates_access s)).setHalf v ((operates_access s).installed hi)

theorem State.InvOf.interrupt (h : s.InvOf p) (c : IntClass) (code : Half) (ilc : BitVec 2) :
    (s.interrupt c code ilc).InvOf p :=
  h.update (h.storage.interrupt c code ilc) (by simp) (by simp) (by simp) (by simp)

theorem State.InvOf.dmaAccess (h : s.InvOf p) (y : DmaAccess) : (s.dmaAccess y).InvOf p := by
  obtain ⟨hw, hm, hk, hmi, hki⟩ := h.storage
  refine h.update ⟨by simpa using hw, State.dmaAccess_wf y hm, by simpa using hk, ?_, by simpa using hki⟩
    (by simp) (by simp) (by simp) (by simp)
  rw [State.dmaAccess_params]
  exact State.dmaAccess_installed y hmi

/-- Installed storage is the same for all machines of an installation. -/
theorem State.InvOf.installed (hs : s.InvOf p) (ht : t.InvOf p) {a : Addr} {n : Nat} (h : s.Installed a n) :
    t.Installed a n := by
  obtain ⟨-, rfl⟩ := hs
  obtain ⟨-, hp⟩ := ht
  unfold State.Installed at *
  rwa [hp]

theorem State.installed_of_availableN {a : Addr} {n : Nat} (h : ¬(!s.availableN a n) = true) : s.Installed a n :=
  (s.availableN_iff a n).1 (by simpa using h)

theorem State.InvOf.send (h : s.InvOf p) (x : Sent) : (s.send x).InvOf p := h
theorem State.InvOf.draw (h : s.InvOf p) : s.draw.InvOf p := h
theorem State.InvOf.hang (h : s.InvOf p) : s.hang.InvOf p := h

/-! ## Buffered input and output -/

theorem State.InvOf.bufferedError (h : s.InvOf p) (code : Half) : (s.bufferedError code).InvOf p :=
  State.InvOf.interrupt (s := { s with burst := none }) h .program code 0#2

theorem State.InvOf.installed_status (h : s.InvOf p) : s.Installed statusLoc 2 :=
  State.installed_low h.wf (by decide)

/-- The two fields of a table entry lie inside its eight bytes (R525). -/
theorem State.installed_entry (h : s.params.wf = true) {e : Addr} (he : s.Installed e 8) (input : Bool) :
    s.Installed (s.entryAddrLoc e input) 2 ∧ s.Installed (s.entryCountLoc e input) 2 := by
  have hl := Params.layout_of_wf h
  simp only [EntryLayout.wf, List.all_cons, List.all_nil, Bool.and_true, Bool.and_eq_true, decide_eq_true_eq] at hl
  obtain ⟨⟨hia, hic, hoa, hoc⟩, -⟩ := hl
  cases input
  · exact ⟨he.drop _ 2 (by simp; omega), he.drop _ 2 (by simp; omega)⟩
  · exact ⟨he.drop _ 2 (by simp; omega), he.drop _ 2 (by simp; omega)⟩

theorem operates_bufferedFields (s : State) (d : BitVec 4) (e : Addr) (input : Bool) :
    Operates s (s.bufferedFields d e input).2.2 := by
  have hfields : Operates s (s.tableFields e input).2.2 := (operates_readHalf s _).trans (operates_readHalf _ _)
  unfold State.bufferedFields
  split
  · split
    · exact .refl s
    · exact hfields
  · exact hfields

theorem State.InvOf.moveHalf (h : s.InvOf p) (d : BitVec 4) (input : Bool) {a : Addr} (w : Half)
    (hi : s.Installed a 2) : (s.moveHalf d input a w).InvOf p := by
  unfold State.moveHalf
  split
  · exact h.writeHalf w hi
  · exact (h.operates (operates_readHalf s a)).send _

theorem State.InvOf.countTable (h : s.InvOf p) (d : BitVec 4) {al cl : Addr} (addr count : Half)
    (hal : s.Installed al 2) (hcl : s.Installed cl 2) : (s.countTable d al cl addr count).InvOf p := by
  have h1 := h.writeHalf (count - 1#16) hcl
  have h2 := h1.writeHalf (addr + 2#16) (h.installed h1 hal)
  unfold State.countTable
  dsimp only
  split
  · exact (h2.send _).writeHalf 0#16 (h2.send _).installed_status
  · exact h2.writeHalf 0#16 h2.installed_status

theorem State.InvOf.countBurst (h : s.InvOf p) (d : BitVec 4) (input : Bool) (addr count : Half) :
    (s.countBurst d input addr count).InvOf p := by
  have ht : State.InvOf p { s with
      chanBusy := true,
      burst := some { device := d, input := input, addr := addr + 2#16, count := count + 1#16 } } := h
  unfold State.countBurst
  dsimp only
  split
  · exact (ht.send _).writeHalf 0#16 (ht.send _).installed_status
  · exact ht

theorem State.InvOf.zeroCountRequest (h : s.InvOf p) (d : BitVec 4) : (s.zeroCountRequest d).InvOf p := by
  unfold State.zeroCountRequest
  split
  · rename_i hc
    simp only [Bool.and_eq_true, Bool.not_eq_true'] at hc
    obtain ⟨hst, hx, -⟩ := (inv_iff s).1 h.1
    refine ⟨(inv_iff _).2 ⟨hst, hx, fun e => ?_⟩, h.2⟩
    rw [show s.pendKey = true from e] at hc
    exact absurd hc.2 (by decide)
  · exact h

/-- Every next state that a move answers meets the invariant and has the installation `p`. -/
def ResultInvOf (p : Params) (r : Result) : Prop := ∀ t, r = .next t → t.InvOf p

theorem resultInvOf_next (h : s.InvOf p) : ResultInvOf p (.next s) := fun _ e => by
  cases e
  exact h

theorem resultInvOf_refused (p : Params) (r : Refusal) : ResultInvOf p (.refused r) := fun _ e => by cases e

theorem State.InvOf.promises (h : s.InvOf p) {r : Result} (hr : Promises s r) : ResultInvOf p r :=
  fun t e => h.allowed (hr t e)

theorem resultInvOf_transferHalf (h : s.InvOf p) (d : BitVec 4) {e : Addr} (input : Bool) (addr count : Half)
    (y : Payload) (he : s.Installed e 8) : ResultInvOf p (s.transferHalf d e input addr count y) := by
  have ht := h.writeHalf addr h.installed_status
  unfold State.transferHalf
  dsimp only
  split
  · exact resultInvOf_next (ht.bufferedError _)
  · rename_i ha
    have ha := h.installed ht (State.installed_of_availableN ha)
    split
    · exact resultInvOf_refused p _
    · split
      · exact resultInvOf_next (ht.bufferedError _)
      · split
        · exact resultInvOf_next (ht.draw.bufferedError _)
        · have hm := ht.moveHalf d input y.data ha
          obtain ⟨hal, hcl⟩ := State.installed_entry h.wf he input
          split
          · exact resultInvOf_next (hm.countBurst d input addr count)
          · exact resultInvOf_next (hm.countTable d addr count (h.installed hm hal) (h.installed hm hcl))

theorem resultInvOf_buffered (h : s.InvOf p) (d : BitVec 4) (input : Bool) (y : Payload) :
    ResultInvOf p (s.buffered d input y) := by
  have ht := h.operates (operates_readWord s cawLoc)
  unfold State.buffered
  dsimp only
  split
  · exact resultInvOf_next ((ht.draw.writeHalf _ ht.draw.installed_status).bufferedError _)
  · rename_i he
    have hf := ht.operates (operates_bufferedFields _ d (entryLoc (s.readWord cawLoc).1 d) input)
    split
    · exact resultInvOf_next (hf.zeroCountRequest d)
    · exact resultInvOf_transferHalf hf d input _ _ y
        (h.installed hf (State.installed_of_availableN he))

/-! ## Requests -/

/-- A request for an I/O interruption becomes pending where no interrupt key is. -/
theorem State.InvOf.pendIo (h : s.InvOf p) (hk : s.pendKey = false) (w : Option Half) :
    State.InvOf p { s with pendIo := w } := by
  obtain ⟨hst, hx, -⟩ := (inv_iff s).1 h.1
  refine ⟨(inv_iff _).2 ⟨hst, hx, fun e => ?_⟩, h.2⟩
  rw [show s.pendKey = true from e] at hk
  cases hk

theorem canPresent_pending {y : Payload} (h : s.canPresent y = true) : s.pendKey = false ∧ s.pendIo = none := by
  simp only [State.canPresent, Bool.and_eq_true, Bool.not_eq_true', Option.isNone_iff_eq_none] at h
  exact ⟨h.1.2, h.2⟩

theorem State.InvOf.presentIo (h : s.InvOf p) (w : Half) (y : Payload) : (s.presentIo w y).InvOf p := by
  unfold State.presentIo
  split
  · rename_i hc
    exact h.pendIo (canPresent_pending hc).1 _
  · exact h

theorem resultInvOf_deviceRequest (h : s.InvOf p) (w : Half) (y : Payload) :
    ResultInvOf p (s.deviceRequest w y) := by
  unfold State.deviceRequest
  split
  · exact resultInvOf_next h
  · split
    · exact resultInvOf_next (h.presentIo w y)
    · split
      · exact resultInvOf_refused p _
      · split
        · exact resultInvOf_buffered h _ _ y
        · split
          · exact resultInvOf_refused p _
          · exact resultInvOf_next (h.presentIo w y)

/-! ## The test support equipment -/

theorem resultInvOf_loadTape (tape : List TapeItem) : ∀ (a : Option Half) (s : State), s.InvOf p →
    ResultInvOf p (loadTape tape a s) := by
  induction tape with
  | nil => exact fun a s h => resultInvOf_next h
  | cons x r ih =>
    intro a s h
    cases x with
    | stop => exact resultInvOf_next h
    | error => exact resultInvOf_next h
    | dma y => exact ih a _ (h.dmaAccess y)
    | address w => exact ih (some w) s h
    | data w =>
      cases a with
      | none => exact resultInvOf_refused p _
      | some a =>
        unfold loadTape
        split
        · rename_i he
          exact ih _ _ (h.setHalf w ((State.storeError_none s _ 2 2).1 he).1.1)
        · exact resultInvOf_next h

/-- Leaving out entries keeps a table in canonical form. -/
theorem sparseWf_filter {w : Nat} {m : List (Nat × BitVec w)} (h : sparseWf m) (f : Nat × BitVec w → Bool) :
    sparseWf (m.filter f) :=
  ⟨h.1.sublist (List.filter_sublist.map _), fun c hc => h.2 c (List.mem_of_mem_filter hc)⟩

theorem State.InvOf.cleared (h : s.InvOf p) : State.InvOf p { s with mem := [], keys := [] } := by
  have hempty : ∀ w, sparseWf ([] : List (Nat × BitVec w)) := fun w => ⟨.nil, nofun⟩
  exact h.update ⟨h.wf, hempty 8, hempty 2, nofun, nofun⟩ rfl rfl rfl rfl

theorem State.InvOf.clearedBelow (h : s.InvOf p) (n : Nat) : State.InvOf p { s with mem := clearBelow n s.mem } := by
  obtain ⟨hw, hm, hk, hmi, hki⟩ := h.storage
  exact h.update ⟨hw, sparseWf_filter hm _, hk, fun c hc => hmi c (List.mem_of_mem_filter hc), hki⟩ rfl rfl rfl rfl

theorem State.InvOf.memoryClear (h : s.InvOf p) (fails : Option (BitVec 19 × Half)) : (s.memoryClear fails).InvOf p := by
  unfold State.memoryClear
  split
  · exact h.cleared
  · split
    · rename_i n w ha
      have hc := h.clearedBelow (halfAddr n).toNat
      exact hc.setHalf w ((s.availableN_iff _ 2).1 ha)
    · exact h.cleared

theorem State.installed_switch {a : Addr} (h : s.switchAddrOk a = true) : s.Installed a 2 := by
  rw [State.switchAddrOk, Bool.and_eq_true] at h
  exact (s.availableN_iff a 2).1 h.2

theorem resultInvOf_tseInSoftStop (h : s.InvOf p) (w : Half) (y : Payload) :
    ResultInvOf p (s.tseInSoftStop w y) := by
  unfold State.tseInSoftStop
  split
  case h_6 =>
    split
    · exact resultInvOf_next h
    · exact resultInvOf_refused p _
  case h_7 =>
    split
    · rename_i ha
      exact resultInvOf_next (h.setHalf y.data (State.installed_switch ha))
    · exact resultInvOf_refused p _
  case h_9 => exact resultInvOf_loadTape y.tape none s h
  case h_11 => exact resultInvOf_next (h.memoryClear y.clearFails)
  case h_12 => exact resultInvOf_refused p _
  all_goals exact resultInvOf_next h

theorem resultInvOf_tseInOperation (h : s.InvOf p) (w : Half) (hk : s.pendKey = false) (hio : s.pendIo = none) :
    ResultInvOf p (s.tseInOperation w) := by
  unfold State.tseInOperation
  split
  case h_1 => split <;> exact resultInvOf_next h
  case h_2 =>
    obtain ⟨hst, hx, -⟩ := (inv_iff s).1 h.1
    exact resultInvOf_next ⟨(inv_iff _).2 ⟨hst, hx, fun _ => hio⟩, h.2⟩
  case h_3 =>
    split
    · exact resultInvOf_next (h.pendIo hk _)
    · exact resultInvOf_refused p _
  case h_12 => exact resultInvOf_refused p _
  all_goals exact resultInvOf_next h

theorem resultInvOf_request (h : s.InvOf p) (w : Half) (y : Payload) : ResultInvOf p (s.request w y) := by
  unfold State.request
  split
  · exact resultInvOf_next h
  · split
    · exact resultInvOf_tseInSoftStop h w y
    · exact resultInvOf_next h
  · split
    · split
      · rename_i hc
        obtain ⟨hk, hio⟩ := canPresent_pending hc
        exact resultInvOf_tseInOperation h w hk hio
      · exact resultInvOf_next h
    · exact resultInvOf_deviceRequest h w y

/-! ## Timer, release, parity error and reset -/

theorem State.InvOf.tick (h : s.InvOf p) : s.tick.InvOf p := by
  unfold State.tick
  split
  · exact h
  · dsimp only
    split <;> exact h

theorem State.InvOf.release (h : s.InvOf p) : s.release.InvOf p := by
  unfold State.release
  split
  · exact h
  · dsimp only
    split
    · split
      · exact h
      · exact State.InvOf.setHalf (s := { s with chanBusy := false, burst := none }) h 0#16 h.installed_status
    · exact h

/-- What every item of a list keeps, going through the list keeps. -/
theorem State.InvOf.foldl {α : Type} {f : State → α → State} (hf : ∀ t x, State.InvOf p t → State.InvOf p (f t x))
    (l : List α) (h : s.InvOf p) : (l.foldl f s).InvOf p := by
  induction l generalizing s with
  | nil => exact h
  | cons x l ih => exact ih (hf s x h)

theorem State.InvOf.storedIfAvailable (h : s.InvOf p) (a : Addr) (v : Byte) :
    State.InvOf p (if s.available a then s.setByte a v else s) := by
  split
  · rename_i ha
    refine h.setBytes (bs := [v]) fun k hk => ?_
    obtain rfl : k = 0 := by simpa using hk
    simpa [State.available] using ha
  · exact h

theorem State.InvOf.setFpr (h : s.InvOf p) (x : BitVec 2 × Word) :
    State.InvOf p { s with fpr := s.fpr.set x.1.toNat x.2 x.1.isLt } :=
  h.operates (.plain rfl)

theorem State.InvOf.storedWhereAvailable (h : s.InvOf p) (l : List (Addr × Byte)) :
    State.InvOf p (l.foldl (fun t x => if t.available x.1 then t.setByte x.1 x.2 else t) s) := by
  induction l generalizing s with
  | nil => exact h
  | cons x l ih =>
    rw [List.foldl_cons]
    exact ih (h.storedIfAvailable x.1 x.2)

theorem State.InvOf.damaged (h : s.InvOf p) (d : Damage) : (s.damaged d).InvOf p := by
  have hgr := State.InvOf.foldl (fun t x ht => ht.operates (operates_setReg t x.1 x.2)) d.gr h
  have hfpr := State.InvOf.foldl (fun _ x ht => ht.setFpr x) d.fpr hgr
  have hbytes := hfpr.storedWhereAvailable d.bytes
  exact hbytes.operates (operates_setCc _ d.cc)

theorem State.InvOf.parityError (h : s.InvOf p) (d : Damage) : (s.parityError d).InvOf p := by
  unfold State.parityError
  split
  · exact h
  · exact h
  · dsimp only
    split
    · exact (h.damaged d).draw.draw.interrupt _ _ _
    · exact (h.damaged d).hang

theorem State.InvOf.systemReset (h : s.InvOf p) (x : ResetImage) : (s.systemReset x).InvOf p :=
  ⟨⟨h.wf, sparseOf_wf _ _, sparseOf_wf _ _, fun _ hc => mem_sparseOf hc, fun _ hc => mem_sparseOf hc, rfl, nofun⟩, h.2⟩

/-! ## The CPU -/

theorem operates_fetch (s : State) : Operates s s.fetch.2 := by
  unfold State.fetch
  dsimp only
  split
  · exact .refl s
  · split
    · exact operates_access s
    · split
      · exact operates_access s
      · split <;> exact operates_readHalves s _ _

/-- Recording the length and moving on ends EXECUTE, which is not under way at a boundary. -/
theorem State.InvOf.advance (h : s.InvOf p) (n : Nat) : (s.advance n).InvOf p := by
  have hx := ((inv_iff s).1 h.1).2.1
  exact h.update h.storage rfl hx.symm rfl rfl

theorem resultInvOf_runInstr (h : s.InvOf p) : ResultInvOf p s.runInstr := by
  have hf := h.operates (operates_fetch s)
  unfold State.runInstr
  split
  · rename_i i n t e
    rw [e] at hf
    exact (hf.advance n).promises (promises_exec i _)
  · rename_i x n t e
    rw [e] at hf
    exact (hf.advance n).promises (promises_raise x _)
  · rename_i t e
    rw [e] at hf
    exact (hf.draw.advance _).promises (promises_raise .addressing _)
  · exact resultInvOf_refused p _

theorem State.InvOf.interruptAsync (h : s.InvOf p) (c : IntClass) (code : Half) : (s.interruptAsync c code).InvOf p :=
  h.draw.interrupt c code _

theorem resultInvOf_cpuCycle (h : s.InvOf p) : ResultInvOf p s.cpuCycle := by
  obtain ⟨hst, hx, hpend⟩ := (inv_iff s).1 h.1
  unfold State.cpuCycle
  split
  · exact resultInvOf_next h
  · exact resultInvOf_next h
  · split
    · exact resultInvOf_next (State.InvOf.interruptAsync (s := { s with pendTimer := false }) h _ _)
    · split
      · have hk : State.InvOf p { s with pendKey := false, chanBusy := false } :=
          ⟨(inv_iff _).2 ⟨hst, hx, nofun⟩, h.2⟩
        exact resultInvOf_next (hk.interruptAsync _ _)
      · split
        · have hio : State.InvOf p { s with pendIo := none } := ⟨(inv_iff _).2 ⟨hst, hx, fun _ => rfl⟩, h.2⟩
          exact resultInvOf_next (hio.interruptAsync _ _)
        · split
          · exact resultInvOf_next h
          · exact resultInvOf_runInstr h

/-! ## Every step -/

theorem State.InvOf.unlessHung (h : s.InvOf p) (ht : t.InvOf p) : (s.unlessHung t).InvOf p := by
  unfold State.unlessHung
  split
  · exact h
  · exact ht

theorem resultInvOf_act (m : Move) (h : s.InvOf p) : ResultInvOf p (m.act s) := by
  cases m with
  | cpu => exact resultInvOf_cpuCycle h
  | tick => exact resultInvOf_next h.tick
  | request w y => exact resultInvOf_request h w y
  | busy b =>
    refine resultInvOf_next (h.unlessHung ?_)
    split
    · exact h
    · exact h.release
  | deviceWord w => exact resultInvOf_next (h.unlessHung h)
  | panel a d => exact resultInvOf_next h
  | dma x => exact resultInvOf_next (h.unlessHung (h.dmaAccess x))
  | parityError d => exact resultInvOf_next (h.parityError d)
  | systemReset x => exact resultInvOf_next (h.systemReset x)

end Sys2Proof.Machine

namespace Sys2Proof.Machine

/-- Settles O5: a step is the move of one agent, and every agent keeps the invariant. -/
theorem stepKeepsInvariant : Obligations.StepKeepsInvariant := by
  intro s t hs he
  have h : s.InvOf s.params := ⟨hs, rfl⟩
  have hr : ResultInvOf s.params (step s) := by
    cases henv : s.env with
    | nil =>
      rw [step_cpu (step_next he) henv]
      exact resultInvOf_cpuCycle h
    | cons m r =>
      rw [step_move (step_next he) henv]
      exact resultInvOf_act m (s := { s with env := r }) h
  exact hr t he

end Sys2Proof.Machine
end

section
/-! PROOFS.
Steps, the fetch and interruptions (spec/60_exceptions.md): who moves at a boundary, what the fetch answers, and what an
interruption stores and loads.
-/
namespace Sys2Proof.Machine

/-! ## Boundaries -/

/-- Settles O4: nothing is listed in storage or keys, and the installation is the standard one. -/
theorem resetMeetsInvariant : Obligations.ResetMeetsInvariant :=
  ⟨by decide, ⟨.nil, nofun⟩, ⟨.nil, nofun⟩, nofun, nofun, rfl, nofun⟩

/-- Settles O3: the reset button is the move at that boundary. -/
theorem resetLeavesSoftStop : Obligations.ResetLeavesSoftStop :=
  ⟨⟨rfl, rfl, rfl, rfl, rfl⟩, fun _ _ _ hw he => ⟨_, step_move hw he, rfl, rfl, rfl, rfl, rfl⟩⟩

/-- Settles O10: the CPU acts, and the branches of its cycle are those of the statement in the same order. -/
theorem boundaryTakesRequestsInOrder : Obligations.BoundaryTakesRequestsInOrder := by
  intro s hw he
  rw [step_cpu hw he]
  by_cases hm : s.mode = .operating
  · rw [if_neg (by simpa using hm)]
    simp only [State.cpuCycle, hm, Bool.and_eq_true]
    by_cases htimer : s.pendTimer = true ∧ s.maskTimer = true
    · simp only [if_pos htimer]
      exact ⟨s.free.setWidth 2, rfl⟩
    simp only [if_neg htimer]
    by_cases hkey : s.maskIo = true ∧ s.pendKey = true
    · simp only [if_pos hkey]
      exact ⟨s.free.setWidth 2, rfl⟩
    simp only [if_neg hkey]
    by_cases hio : s.maskIo = true ∧ s.pendIo ≠ none
    · obtain ⟨w, hpend⟩ := Option.ne_none_iff_exists'.1 hio.2
      rw [if_pos hio]
      refine ⟨w, s.free.setWidth 2, hpend, ?_⟩
      simp only [hio.1, hpend]
      rfl
    rw [if_neg hio]
    intro hwait
    split
    · rename_i hmask hpend
      exact absurd ⟨hmask, by simp [hpend]⟩ hio
    · rw [if_pos hwait]
  · rw [if_pos hm]
    unfold State.cpuCycle
    split
    · rfl
    · rfl
    · contradiction

/-- Counting a halfword down. -/
theorem half_sub_one {v : Half} (h : v ≠ 0#16) : (v - 1#16).toNat + 1 = v.toNat := by
  have hv : v.toNat ≠ 0 := fun e => h (BitVec.eq_of_toNat_eq e)
  rw [BitVec.toNat_sub_of_le (by rw [BitVec.le_def]; simp; omega)]
  simp only [BitVec.toNat_ofNat]
  omega

/-- Settles O11: by whether the channel is busy and by the mode. -/
theorem tickMovesTimers : Obligations.TickMovesTimers := by
  intro s r hw he
  refine ⟨_, step_move hw he, ?_⟩
  unfold State.tick
  cases hb : s.chanBusy with
  | true => exact ⟨rfl, fun _ => ⟨rfl, rfl, rfl⟩, nofun, nofun, nofun⟩
  | false =>
    have hclock : (s.rtc + 1#32).toNat = (s.rtc.toNat + 1) % 2 ^ 32 := BitVec.toNat_add ..
    cases hm : s.mode with
    | hung =>
      exact ⟨rfl, fun _ => ⟨rfl, rfl, rfl⟩, fun _ h => absurd rfl h, nofun, nofun⟩
    | softStop =>
      refine ⟨rfl, ?_, fun _ _ => hclock, fun _ _ => ⟨rfl, rfl⟩, nofun⟩
      rintro (h | h) <;> cases h
    | operating =>
      refine ⟨rfl, ?_, fun _ _ => hclock, nofun, fun _ _ => ⟨fun h0 => ?_, fun h0 => ⟨half_sub_one h0, ?_⟩⟩⟩
      · rintro (h | h) <;> cases h
      · simp [State.countDown, h0]
      · simp [State.countDown, h0]

/-! ## The fetch -/

/-- Reading an instruction changes nothing but what DMA may. -/
theorem State.readHalves_psw (s : State) (a : Addr) (n : Nat) : (s.readHalves a n).2.psw = s.psw := by
  induction n generalizing s a with
  | zero => rfl
  | succ n ih => simp [State.readHalves, ih]

/-- The first byte of an instruction is the byte that selects its length. -/
theorem State.readHalves_first (s : State) (a : Addr) {n : Nat} (h : 1 ≤ n) :
    ∃ l, (s.readHalves a n).1 = s.access.byte a :: l := by
  cases n with
  | zero => omega
  | succ n => exact ⟨_, rfl⟩

theorem State.Installed.available {s : State} {a : Addr} {n : Nat} (h : s.Installed a n) (hn : 0 < n) :
    s.available a = true := by
  have := h 0 hn
  simpa [State.available] using this

theorem anyLength_range (v : BitVec 64) : 1 ≤ anyLength v ∧ anyLength v ≤ 3 := by
  unfold anyLength
  omega

/-- The last fullword begins four bytes before the end of storage, and no storage of 2^20 bytes has one (R561, D33). -/
theorem State.inLastFullword_false {s : State} {a : Addr} {n : Nat}
    (h : s.params.memSize = 2 ^ 20 ∨ a.toNat + 2 * n + 4 ≤ s.params.memSize) : s.inLastFullword a n = false := by
  unfold State.inLastFullword
  simp
  omega

/-- Settles O6: the fetch answers the decoded instruction, and reading it leaves the PSW. -/
theorem stepRunsDecodedInstruction : Obligations.StepRunsDecodedInstruction := by
  intro s i rest n x
  refine ⟨fun hf hkey hodd hin hlast hdec => ?_, fun hq => ⟨State.access_quiet hq, State.readHalves_quiet hq _ _⟩⟩
  have hn : 1 ≤ n := (instrLength_range _ _).1
  have hav : s.available s.psw.ia = true := hin.available (by omega)
  rw [step_fetches hf, State.runInstr,
    State.fetch_instr rfl hav (by rw [hkey, hodd]; decide) ((s.availableN_iff _ _).2 hin) hdec
      (State.inLastFullword_false hlast)]
  exact congrArg (exec i) (by simp only [State.advance, State.readHalves_psw]; rfl)

/-- Settles O7: by the branches of the fetch. -/
theorem fetchExceptionsInOrder : Obligations.FetchExceptionsInOrder := by
  intro s u n after hf
  rw [step_fetches hf, State.runInstr]
  have hn : 1 ≤ n := (instrLength_range _ _).1
  have hadvance : ∀ (v : State) (k : Nat), v.psw = s.psw → v.advance k = after v k := by
    intro v k hv
    simp only [State.advance, hv, after]
  split_ifs with hav hkey
  · rw [State.fetch_unavailable (by simpa [State.available] using hav)]
    exact ⟨_, (anyLength_range _).1, (anyLength_range _).2, rfl⟩
  all_goals have hav : s.available s.psw.ia = true := by simpa [State.available] using hav
  · rw [State.fetch_specification rfl hav hkey]
    exact congrArg (raise .specification) (hadvance _ _ (s.access_psw))
  · refine ⟨fun hin => ?_, fun hin hrows => ?_⟩
    · rw [State.fetch_addressing rfl hav hkey (by rwa [← Bool.not_eq_true, State.availableN_iff])]
      exact congrArg (raise .addressing) (hadvance _ _ (s.access_psw))
    · obtain ⟨l, hl⟩ := s.readHalves_first s.psw.ia hn
      obtain ⟨e, he⟩ := decode_unassigned (bs := l) hrows
      rw [State.fetch_operation rfl hav hkey ((s.availableN_iff _ _).2 hin) (e := e) (by rw [← he, ← hl]; rfl)]
      exact congrArg (raise .operation) (hadvance _ _ (s.readHalves_psw _ _))

/-! ## Interruptions -/

/-- The double word that an interruption stores, field by field (R24, R470). -/
theorem Psw.pack_eq (p : Psw) (code : Half) (ilc : BitVec 2) :
    p.pack code ilc = p.sm ++ p.key ++ BitVec.ofBool p.a ++ BitVec.ofBool p.m ++ BitVec.ofBool p.w ++ BitVec.ofBool p.p ++
      code ++ ilc ++ p.cc ++ p.pm ++ BitVec.ofBool p.b40 ++ p.b41 ++ p.ia := by
  simp only [Psw.pack, Psw.left, Psw.right, BitVec.append_assoc, BitVec.cast_eq]

/-- An interruption changes the PSW, the mode, the keys and storage, apart from what DMA has done before it. -/
theorem State.interrupt_frame (s : State) (c : IntClass) (code : Half) (ilc : BitVec 2) :
    s.interrupt c code ilc =
      { s.access with
        psw := (s.interrupt c code ilc).psw, mode := (s.interrupt c code ilc).mode
        keys := (s.interrupt c code ilc).keys, mem := (s.interrupt c code ilc).mem } := by
  have h : (s.access.setKey 0 1#2).setDword c.oldLoc (s.oldPsw c code ilc) = _ := State.setBytes_eq _ _ _
  rw [State.interrupt, h]
  rfl

/-- Settles O8: the old PSW is packed into eight bytes, and the new one read from eight others. -/
theorem interruptionSwapsPsws : Obligations.InterruptionSwapsPsws := by
  intro s c code ilc u t b40 new
  refine ⟨?old, ?new, rfl, ?key0, ?key, fun x hx => s.interrupt_byte_out c code ilc x hx, s.interrupt_frame c code ilc,
    by cases c <;> rfl, by cases c <;> rfl⟩
  case old =>
    rw [State.interrupt_oldLoc, State.oldPsw, Psw.pack_eq]
    by_cases hc : c = .machineCheck
    · simp only [b40, if_pos hc]
    · simp only [b40, if_neg hc]
  case new => exact s.interrupt_psw c code ilc
  case key0 => rw [State.interrupt_key, if_pos rfl]
  case key => exact fun b hb => by rw [State.interrupt_key, if_neg hb]

/-- The middle of three fields joined. -/
theorem slice_middle (x y : Half) (z : Word) : slice (x ++ y ++ z : Dword) 16 16 = y := by
  rw [slice, BitVec.extractLsb'_append_eq_of_le (by decide)]
  exact BitVec.extractLsb'_append_eq_right

/-- The second halfword of a double word. -/
theorem State.half_of_dword (s : State) (a : Addr) : s.half (a + 2#20) = slice (s.dword a) 16 16 :=
  (slice_middle _ _ _).symm

theorem Psw.pack_code (p : Psw) (code : Half) (ilc : BitVec 2) : slice (p.pack code ilc) 16 16 = code :=
  slice_middle _ _ _

theorem Psw.pack_ilc (p : Psw) (code : Half) (ilc : BitVec 2) : (p.pack code ilc).extractLsb' 30 2 = ilc := by
  rw [Psw.pack, BitVec.extractLsb'_append_eq_of_add_le (by decide), Psw.right]
  simp only [BitVec.append_assoc, BitVec.cast_eq]
  exact BitVec.extractLsb'_append_eq_left

theorem Psw.pack_ia (p : Psw) (code : Half) (ilc : BitVec 2) : (p.pack code ilc).extractLsb' 0 20 = p.ia := by
  rw [Psw.pack, BitVec.extractLsb'_append_eq_of_add_le (by decide), Psw.right]
  exact BitVec.extractLsb'_append_eq_right

/-- Settles O9: the fields of the old PSW of the program class. -/
theorem exceptionsHaveTheirCodes : Obligations.ExceptionsHaveTheirCodes := by
  intro s e
  have hold : (s.interrupt .program e.code s.ilc).dword 40 = s.psw.pack e.code s.ilc :=
    s.interrupt_oldLoc .program e.code s.ilc
  refine ⟨_, raise_eq e s, by cases e <;> rfl, ?_, ?_, ?_⟩
  · calc (s.interrupt .program e.code s.ilc).half 42 = slice ((s.interrupt .program e.code s.ilc).dword 40) 16 16 :=
          State.half_of_dword _ 40
      _ = e.code := by rw [hold, Psw.pack_code]
  · rw [hold, Psw.pack_ilc]
  · rw [hold, Psw.pack_ia]

end Sys2Proof.Machine
end

section
/-! PROOFS.
Addresses, and the fixed-point instructions with an operand in storage (spec/30_encoding.md, spec/40_fixed_point.md): each is
the register form's ending after a quiet read.
-/
namespace Sys2Proof.Machine

/-! ## Addresses -/

/-- The low bits of a sum of registers and a displacement are those of the sum of their values (R108). -/
theorem slice_eq_ofNat (v : Word) {n : Nat} (h : n ≤ 32) : slice v (32 - n) n = BitVec.ofNat n v.toNat := by
  unfold slice
  rw [show 32 - (32 - n) - n = 0 by omega, ← BitVec.setWidth_eq_extractLsb' h, BitVec.ofNat_toNat]

theorem State.base_toNat (s : State) (b : Reg) :
    (s.base b).toNat = if b = 0#4 ∧ s.inExecute = false then 0 else (s.reg b).toNat := by
  unfold State.base
  split <;> rfl

theorem State.index_toNat (s : State) (x : Reg) : (s.index x).toNat = if x = 0#4 then 0 else (s.reg x).toNat := by
  unfold State.index
  split <;> rfl

theorem disp_eq_ofNat (d : Disp) (n : Nat) : d.setWidth n = BitVec.ofNat n d.toNat := by
  rw [BitVec.ofNat_toNat]

/-- The low `n` bits of index, base and displacement added up (R108, R110, R346). -/
theorem State.sum_eq_ofNat (s : State) (x b : Reg) (d : Disp) {n : Nat} (h : n ≤ 32) :
    slice (s.index x) (32 - n) n + slice (s.base b) (32 - n) n + d.setWidth n =
      BitVec.ofNat n ((s.index x).toNat + (s.base b).toNat + d.toNat) := by
  rw [slice_eq_ofNat _ h, slice_eq_ofNat _ h, disp_eq_ofNat, BitVec.ofNat_add, BitVec.ofNat_add]

/-- Settles O12: each address is the low part of one sum. -/
theorem addressesAreSums : Obligations.AddressesAreSums := by
  intro s r1 x2 b2 d2 x b
  rw [show x = (s.index x2).toNat from (s.index_toNat x2).symm, show b = (s.base b2).toNat from (s.base_toNat b2).symm]
  refine ⟨?ea, ?eax, ?la, ?las⟩
  case ea =>
    have h : s.ea b2 d2 = BitVec.ofNat 20 ((s.base b2).toNat + d2.toNat) := by
      rw [BitVec.ofNat_add, ← slice_eq_ofNat _ (by decide), ← disp_eq_ofNat]
      rfl
    rw [h, BitVec.toNat_ofNat]
  case eax =>
    rw [show s.eax x2 b2 d2 = _ from s.sum_eq_ofNat x2 b2 d2 (by decide), BitVec.toNat_ofNat]
  case la =>
    refine completes_setReg rfl ?_
    rw [show s.ea24 x2 b2 d2 = _ from s.sum_eq_ofNat x2 b2 d2 (by decide)]
    exact BitVec.eq_of_toNat_eq (by simp)
  case las => exact completes_setLo rfl (s.sum_eq_ofNat x2 b2 d2 (by decide))

/-! ## Loads, adds and products -/

/-- An instruction that writes general register `r` and the condition code. -/
theorem completes_setReg_setCc {i : Instr} {s : State} {r : Reg} {v : Word} {c d : Cc}
    (he : exec i s = .next ((s.setReg r v).setCc c)) (hc : c = d) : Completes i s (RegResult s r v d) := by
  subst hc
  exact ⟨_, he, regResult_setReg_setCc s r v c⟩

/-- Settles O14: the operand goes to the register as it is, extended, or into its last byte. -/
theorem loadsFromStorage : Obligations.LoadsFromStorage := by
  intro s r1 r2 x2 b2 d2 a
  refine ⟨?lhr, fun hq hr => ⟨?l, ?lt⟩, fun hq hr => ?lh, fun hq hr => ?ic⟩
  case lhr => exact completes_setReg rfl rfl
  case l => exact completes_setReg (withWord_quiet hq hr _ _) rfl
  case lt => exact completes_setReg_setCc (withWord_quiet hq hr _ _) (ccS_eq (s.word a))
  case lh => exact completes_setReg (withHalf_quiet hq hr _ _) rfl
  case ic => exact completes_setReg (withByte_quiet hq hr _ _) rfl

/-- Settles O16: as the register forms, after a quiet read. -/
theorem addsFromStorage : Obligations.AddsFromStorage := by
  intro s r1 x2 b2 d2 a x w h
  have hh : (h.signExtend 32).toInt = h.toInt := toInt_signExtend_half h
  refine ⟨fun hq hr => ⟨?a, ?s⟩, fun hq hr => ?halves⟩
  case a => exact endsArith_putArith (withWord_quiet hq hr _ _) rfl (narrow_fst_add x w)
  case s => exact endsArith_putArith (withWord_quiet hq hr _ _) rfl (narrow_fst_sub x w)
  case halves =>
    rw [← hh]
    refine ⟨?ah, ?sh⟩
    case ah => exact endsArith_putArith (withHalf_quiet hq hr _ _) rfl (narrow_fst_add x (h.signExtend 32))
    case sh => exact endsArith_putArith (withHalf_quiet hq hr _ _) rfl (narrow_fst_sub x (h.signExtend 32))

/-- The low half of the exact product is the product of the bits (R173). -/
theorem ofInt_mul_half (y : Word) (h : Half) : BitVec.ofInt 32 (y.toInt * h.toInt) = y * h.signExtend 32 := by
  rw [BitVec.ofInt_mul, BitVec.ofInt_toInt]
  rfl

/-- Settles O19: the odd register of a pair is the one after it. -/
theorem multipliesWords : Obligations.MultipliesWords := by
  intro s r1 r2 x2 b2 d2 i2 a x y
  refine ⟨fun heven => ⟨?mr, fun hq hr => ?m⟩, ?mhi, fun hq hr => ?mh⟩
  case mr => exact completes_setPair rfl heven (by rw [oddOf_even heven]; rfl)
  case m => exact completes_setPair (withWord_quiet hq hr _ _) heven (by rw [oddOf_even heven]; rfl)
  case mhi => exact completes_setReg rfl (ofInt_mul_half y i2)
  case mh => exact completes_setReg (withHalf_quiet hq hr _ _) (ofInt_mul_half y (s.half a))

/-! ## Quotients -/

/-- `n` divided by `d` is `q`, rounded toward zero, with the remainder `m` (R174, D20). -/
def Divides (n d q m : Int) : Prop := n = q * d + m ∧ m.natAbs < d.natAbs ∧ (m = 0 ∨ (m < 0 ↔ n < 0))

theorem Divides.tdiv {n d q m : Int} (h : Divides n d q m) : n.tdiv d = q :=
  tdiv_unique h.1 h.2.1 h.2.2

theorem Divides.remainder {n d q m : Int} (h : Divides n d q m) : n - q * d = m := by
  obtain ⟨hn, _, _⟩ := h
  omega

theorem Divides.divisor_ne {w : Nat} {n q m : Int} {d : BitVec w} (h : Divides n d.toInt q m) : d ≠ 0#w := by
  rintro rfl
  simpa using h.2.1

theorem State.setPair_append (s : State) (r : Reg) (a b : Word) :
    s.setPair r (a ++ b) = (s.setReg r a).setReg (oddOf r) b := by
  have ha : slice (a ++ b : Dword) 0 32 = a := BitVec.extractLsb'_append_eq_left
  have hb : slice (a ++ b : Dword) 32 32 = b := BitVec.extractLsb'_append_eq_right
  rw [State.setPair, ha, hb]

theorem dividePair_divides {s : State} {r : Reg} {v : Word} {q m : Int} (heven : evenReg r = true)
    (h : Divides (s.reg r ++ s.reg (r + 1#4)).toInt v.toInt q m) :
    dividePair r v s =
      if fits 32 q then .next (s.setPair r (BitVec.ofInt 32 m ++ BitVec.ofInt 32 q)) else raise .fixedDivide s := by
  rw [dividePair, needEven_even heven, s.pair_even heven]
  simp only [quotient, h.tdiv, h.remainder]
  rw [if_neg (show ¬v = 0 from h.divisor_ne), State.setPair_append]
  cases fits 32 q
  · rfl
  · rfl

theorem dividePair_zero {s : State} {r : Reg} (heven : evenReg r = true) :
    dividePair r 0#32 s = raise .fixedDivide s := by
  rw [dividePair, needEven_even heven]
  exact if_pos rfl

theorem not_fits {w : Nat} {x : Int} (h : ¬InRange w x) : fits w x = false := by
  rwa [← Bool.not_eq_true, fits_iff]

/-- An instruction that divides the pair `r` by `v`, where the quotient fits. -/
theorem completes_dividePair {i : Instr} {s : State} {r : Reg} {v : Word} {q m : Int}
    (he : exec i s = dividePair r v s) (heven : evenReg r = true)
    (h : Divides (s.reg r ++ s.reg (r + 1#4)).toInt v.toInt q m) (hq : InRange 32 q) :
    Completes i s (PairResult s r (BitVec.ofInt 32 m ++ BitVec.ofInt 32 q) s.psw.cc) := by
  rw [dividePair_divides heven h, if_pos ((fits_iff 32 q).2 hq)] at he
  exact ⟨_, he, pairResult_setPair s heven _⟩

/-- An instruction that divides the pair `r` by `v`, where there is no quotient or it does not fit. -/
theorem suppressed_dividePair {i : Instr} {s : State} {r : Reg} {v : Word} {q m : Int}
    (he : exec i s = dividePair r v s) (heven : evenReg r = true)
    (h : v = 0#32 ∨ Divides (s.reg r ++ s.reg (r + 1#4)).toInt v.toInt q m ∧ ¬InRange 32 q) :
    Suppressed .fixedDivide i s := by
  rw [Suppressed, he]
  obtain rfl | ⟨hd, hq⟩ := h
  · exact dividePair_zero heven
  · rw [dividePair_divides heven hd, not_fits hq]
    rfl

/-- Settles O20: the stated quotient is the one that rounds toward zero. -/
theorem dividesWords : Obligations.DividesWords := by
  intro s r1 r2 x2 b2 d2 q m heven a n good result
  refine ⟨?dr, ?drStop, fun hq hr => ⟨?d, ?dStop⟩⟩
  case dr => exact completes_dividePair rfl heven
  case drStop => exact suppressed_dividePair rfl heven
  case d => exact completes_dividePair (withWord_quiet hq hr _ _) heven
  case dStop => exact suppressed_dividePair (withWord_quiet hq hr _ _) heven

/-- A short quotient, sign-extended (R343). -/
theorem divideShort_divides {s : State} {r : Reg} {d : Half} {q m : Int} (h : Divides (s.reg r).toInt d.toInt q m) :
    divideShort r d s =
      if fits 16 q then .next (s.setReg r ((BitVec.ofInt 16 q).signExtend 32)) else raise .fixedDivide s := by
  simp only [divideShort, h.tdiv]
  rw [if_neg h.divisor_ne]
  cases fits 16 q
  · rfl
  · rfl

theorem signExtend_ofInt_half {q : Int} (h : InRange 16 q) : (BitVec.ofInt 16 q).signExtend 32 = BitVec.ofInt 32 q := by
  rw [BitVec.signExtend, toInt_ofInt_inRange (by decide) h]

/-- An instruction that divides register `r` by a short divisor. -/
theorem completes_or_suppressed_divideShort {i : Instr} {s : State} {r : Reg} {d : Half} {q m : Int}
    (he : exec i s = divideShort r d s) :
    (Divides (s.reg r).toInt d.toInt q m → InRange 16 q →
      Completes i s (RegResult s r (BitVec.ofInt 32 q) s.psw.cc)) ∧
    (d = 0#16 ∨ Divides (s.reg r).toInt d.toInt q m ∧ ¬InRange 16 q → Suppressed .fixedDivide i s) := by
  refine ⟨fun hd hq => ?fit, fun h => ?stop⟩
  case fit =>
    rw [divideShort_divides hd, if_pos ((fits_iff 16 q).2 hq)] at he
    exact completes_setReg he (signExtend_ofInt_half hq)
  case stop =>
    rw [Suppressed, he]
    obtain rfl | ⟨hd, hq⟩ := h
    · rw [divideShort]
      exact if_pos rfl
    · rw [divideShort_divides hd, not_fits hq]
      rfl

/-- Settles O31: as the words, with a quotient of sixteen bits. -/
theorem multipliesAndDividesShort : Obligations.MultipliesAndDividesShort := by
  intro s r1 r2 x2 b2 d2 i2 q m a x y h n good divides
  refine ⟨?msr, ?msi, ?dsr, ?dsi, fun hq hr => ⟨?ms, ?ds⟩⟩
  case msr => exact completes_setReg rfl rfl
  case msi => exact completes_setReg rfl rfl
  case dsr => exact completes_or_suppressed_divideShort rfl
  case dsi => exact completes_or_suppressed_divideShort rfl
  case ms => exact completes_setReg (withHalf_quiet hq hr _ _) rfl
  case ds => exact completes_or_suppressed_divideShort (withHalf_quiet hq hr _ _)

/-! ## Results in pairs -/

/-- An instruction that writes the register pair `r` and the condition code. -/
theorem completes_setPair_setCc {i : Instr} {s : State} {r : Reg} {z v : Dword} {c d : Cc}
    (he : exec i s = .next ((s.setPair r z).setCc c)) (heven : evenReg r = true) (hz : z = v) (hc : c = d) :
    Completes i s (PairResult s r v d) := by
  subst hz hc
  exact ⟨_, he, pairResult_setPair_setCc s heven z c⟩

/-- An instruction that puts the exact integer `x`, narrowed to the double word `v`, in the register pair `r` (R410). -/
theorem endsArith_putArithPair {i : Instr} {s : State} {r : Reg} {z : Dword × Bool} {x : Int} {v : Dword}
    (he : exec i s = putArithPair r z s) (heven : evenReg r = true) (hz : z = narrow 64 x) (hv : (narrow 64 x).1 = v) :
    EndsArith i s 64 x (PairResult s r v) := by
  subst hz hv
  exact endsArith_of_finish (by decide) he (fun c => pairResult_setPair_setCc s heven _ c) rfl

theorem needEvens_even {s : State} {r q : Reg} (hr : evenReg r = true) (hq : evenReg q = true) (k : Result) :
    needEvens s r q k = k := by
  rw [needEvens, needEven_even hr, needEven_even hq]

/-- Settles O26: both forms of an instruction end alike, once the register numbers have passed. -/
theorem doublePrecisionArithmetic : Obligations.DoublePrecisionArithmetic := by
  intro s r1 r2 x2 b2 d2 h1 a x y w
  have hx : s.pair r1 = x := s.pair_even h1
  refine ⟨fun h2 => ?registers, fun hq hr => ?storage⟩
  case registers =>
    have hy : s.pair r2 = y := s.pair_even h2
    rw [← hx, ← hy]
    have checked (k : Result) : needEvens s r1 r2 k = k := needEvens_even h1 h2 k
    refine ⟨?ldr, ?lcdr, ?adr, ?sdr, ?cdr⟩
    case ldr => exact completes_setPair (congrArg (needEven s r1) (needEven_even h2 _)) h1 rfl
    case lcdr => exact endsArith_putArithPair (checked _) h1 (subS_zero _) (narrow_fst_neg _)
    case adr => exact endsArith_putArithPair (checked _) h1 rfl (narrow_fst_add _ _)
    case sdr => exact endsArith_putArithPair (checked _) h1 rfl (narrow_fst_sub _ _)
    case cdr => exact completes_ccCompare (checked _)
  case storage =>
    rw [← hx]
    have checked (spoil : State → State) (k : Dword → State → Result) :
        withDword s a 4 spoil (fun v t => needEven t r1 (k v t)) = k w s :=
      (withDword_quiet hq hr _ _).trans (needEven_even h1 _)
    refine ⟨?ld, ?ad, ?sd, ?cd⟩
    case ld => exact completes_setPair (withDword_quiet hq hr _ _) h1 rfl
    case ad => exact
      endsArith_putArithPair (checked _ fun v s => putArithPair r1 (addS (s.pair r1) v) s) h1 rfl (narrow_fst_add _ _)
    case sd => exact
      endsArith_putArithPair (checked _ fun v s => putArithPair r1 (subS (s.pair r1) v) s) h1 rfl (narrow_fst_sub _ _)
    case cd => exact completes_ccCompare (checked _ fun v s => .next (s.setCc (ccSigned (s.pair r1) v)))

/-! ## Arithmetic shifts -/

/-- Dividing by a power of two, rounding downward, is the arithmetic shift (R191). -/
theorem shiftRightA_eq {w : Nat} (v : BitVec w) (n : Nat) : shiftRightA v n = v.sshiftRight n := by
  apply BitVec.eq_of_toInt_eq
  rw [shiftRightA, ← BitVec.ofInt_toInt (x := v.sshiftRight n), BitVec.toInt_sshiftRight, Int.shiftRight_eq_div_pow]
  norm_cast

theorem ccS_shiftRightA {w : Nat} (v : BitVec w) (n : Nat) : ccS (shiftRightA v n) = ccOfSign (v.toInt / 2 ^ n) := by
  rw [ccS_eq, shiftRightA_eq, BitVec.toInt_sshiftRight, Int.shiftRight_eq_div_pow]
  norm_cast

/-- Where the sign stays and the integer field is shifted (R190). -/
theorem getLsbD_shiftLeftA {k : Nat} (v : BitVec (k + 1)) (n j : Nat) (hj : j < k + 1) :
    (shiftLeftA v n).1.getLsbD j = if j = k then v.msb else decide (n ≤ j) && v.getLsbD (j - n) := by
  simp only [shiftLeftA, signBit, Nat.add_sub_cancel]
  by_cases h : j = k
  · subst h
    simp [BitVec.getElem_twoPow, BitVec.msb_eq_getLsbD_last]
  · simp [BitVec.getElem_twoPow, hj, h]
    grind

/-- The result of a left shift: the sign before the shifted integer field (R190). -/
theorem shiftLeftA_fst {k : Nat} (v : BitVec (k + 1)) (n : Nat) :
    (shiftLeftA v n).1 = (BitVec.ofBool v.msb ++ (v.extractLsb' 0 k <<< n)).cast (Nat.add_comm 1 k) := by
  apply BitVec.eq_of_getLsbD_eq
  intro j hj
  rw [getLsbD_shiftLeftA v n j hj, BitVec.getLsbD_cast, BitVec.getLsbD_append]
  by_cases h : j = k
  · simp [h]
  · have hjk : j < k := by omega
    simp only [h, hjk, if_false, if_true, BitVec.getLsbD_shiftLeft, BitVec.getLsbD_extractLsb', Nat.zero_add]
    by_cases hn : n ≤ j
    · simp [hn, show j - n < k by omega, Nat.not_lt.2 hn]
    · simp [hn]

/-- The bits of `v` from place `j` on are zero exactly where it is below `2 ^ j`. -/
theorem toNat_lt_pow_iff {w : Nat} (v : BitVec w) (j : Nat) :
    v.toNat < 2 ^ j ↔ ∀ i, j ≤ i → i < w → v.getLsbD i = false := by
  constructor
  · intro h i hji _
    exact Nat.testBit_lt_two_pow (lt_of_lt_of_le h (Nat.pow_le_pow_right (by decide) hji))
  · intro h
    refine Nat.lt_pow_two_of_testBit _ fun i hji => ?_
    by_cases hi : i < w
    · exact h i hji hi
    · exact BitVec.getLsbD_of_ge v i (by omega)

/-- The bits from place `j` up to the sign agree with the sign exactly where the number fits in `j + 1` bits. -/
theorem agrees_iff_inRange {k : Nat} (v : BitVec (k + 1)) (j : Nat) :
    (∀ i, j ≤ i → i < k + 1 → v.getLsbD i = v.msb) ↔ InRange (j + 1) v.toInt := by
  have hpow : ((2 ^ j : Nat) : Int) = 2 ^ j := by push_cast; rfl
  simp only [InRange, Nat.add_sub_cancel]
  cases hs : v.msb with
  | false =>
    rw [← toNat_lt_pow_iff, BitVec.toInt_eq_toNat_of_msb hs]
    omega
  | true =>
    have hc : ∀ i, i < k + 1 → (v.getLsbD i = true ↔ (~~~v).getLsbD i = false) := by
      intro i hi
      simp [hi]
    have hn : v.toInt = v.toNat - ((2 ^ (k + 1) : Nat) : Int) := by rw [BitVec.toInt_eq_msb_cond, if_pos hs]
    have hm : (~~~v).toNat = 2 ^ (k + 1) - 1 - v.toNat := BitVec.toNat_not
    have hv := v.isLt
    rw [show (∀ i, j ≤ i → i < k + 1 → v.getLsbD i = true) ↔ _ from
      forall_congr' fun i => forall_congr' fun _ => forall_congr' fun hi => hc i hi, ← toNat_lt_pow_iff]
    omega

/-- The places that the shift moves out of the integer field, counted from the sign (R190). -/
theorem shiftLeftA_snd {k : Nat} (v : BitVec (k + 1)) (n : Nat) :
    (shiftLeftA v n).2 = false ↔ InRange (k - min n k + 1) v.toInt := by
  rw [← agrees_iff_inRange]
  simp only [shiftLeftA, List.any_eq_false, List.mem_range, bne_iff_ne, ne_eq, not_not, Nat.add_sub_cancel]
  constructor
  · intro h i hi hk
    by_cases he : i = k
    · rw [he, BitVec.msb_eq_getLsbD_last, Nat.add_sub_cancel]
    · have := h (k - 1 - i) (by omega)
      rwa [show k + 1 - 2 - (k - 1 - i) = i by omega] at this
  · exact fun h i hi => h _ (by omega) (by omega)

/-- A number fits in fewer places exactly where its product with the power of two fits in all. -/
theorem inRange_mul_two_pow {m k : Nat} (h : m ≤ k) (x : Int) :
    InRange (k + 1) (x * 2 ^ m) ↔ InRange (k - m + 1) x := by
  have hpos : (0 : Int) < 2 ^ m := by positivity
  have hk : (2 : Int) ^ k = 2 ^ (k - m) * 2 ^ m := by rw [← pow_add, Nat.sub_add_cancel h]
  simp only [InRange, Nat.add_sub_cancel, hk, ← neg_mul]
  rw [mul_le_mul_iff_left₀ hpos, mul_lt_mul_iff_left₀ hpos]

/-- A shift by more places than the integer field has is a shift by all of them. -/
theorem shiftLeftA_min {k : Nat} (v : BitVec (k + 1)) (n : Nat) : (shiftLeftA v n).1 = (shiftLeftA v (min n k)).1 := by
  apply BitVec.eq_of_getLsbD_eq
  intro j hj
  rw [getLsbD_shiftLeftA v n j hj, getLsbD_shiftLeftA v (min n k) j hj]
  by_cases he : j = k
  · rw [if_pos he, if_pos he]
  · rw [if_neg he, if_neg he]
    by_cases hn : n ≤ k
    · rw [Nat.min_eq_left hn]
    · simp [Nat.min_eq_right (show k ≤ n by omega), show ¬n ≤ j by omega, show ¬k ≤ j by omega]

/-- A shift that loses no bit unlike the sign is a multiplication (R190). -/
theorem toInt_shiftLeftA {k : Nat} (v : BitVec (k + 1)) {n : Nat} (h : InRange (k + 1) (v.toInt * 2 ^ min n k)) :
    (shiftLeftA v n).1.toInt = v.toInt * 2 ^ min n k := by
  rw [shiftLeftA_min]
  generalize min n k = m at h
  have hshift : v <<< m = BitVec.ofInt (k + 1) (v.toInt * 2 ^ m) := by
    rw [BitVec.ofInt_mul, BitVec.ofInt_toInt, BitVec.shiftLeft_eq_mul_twoPow,
      show (2 : Int) ^ m = ((2 ^ m : Nat) : Int) by push_cast; rfl, BitVec.ofInt_natCast]
    exact congrArg (v * ·) (BitVec.eq_of_toNat_eq (by rw [BitVec.toNat_twoPow, BitVec.toNat_ofNat]))
  have hvalue : (v <<< m).toInt = v.toInt * 2 ^ m := by rw [hshift, toInt_ofInt_inRange (by omega) h]
  have hsign : (v <<< m).msb = v.msb := by
    have hpos : (0 : Int) < 2 ^ m := by positivity
    rw [BitVec.msb_eq_toInt, BitVec.msb_eq_toInt, hvalue, decide_eq_decide, ← not_le, ← not_le,
      mul_nonneg_iff_of_pos_right hpos]
  rw [← hvalue]
  congr 1
  apply BitVec.eq_of_getLsbD_eq
  intro j hj
  rw [getLsbD_shiftLeftA v m j hj]
  by_cases he : j = k
  · rw [if_pos he, ← hsign, BitVec.msb_eq_getLsbD_last, he, Nat.add_sub_cancel]
  · rw [if_neg he, BitVec.getLsbD_shiftLeft]
    simp [hj]
    grind

/-- An instruction that ends like an arithmetic one, its overflow and its value those of the exact integer `x`. -/
theorem endsArith_of_value {i : Instr} {s u : State} {w : Nat} {x : Int} {z : BitVec w × Bool} {p : Cc → State → Prop}
    (he : exec i s = finishArith z u) (hp : ∀ c, p c (u.setCc c)) (hm : u.maskOverflow = s.maskOverflow)
    (hov : z.2 = false ↔ InRange w x) (hv : InRange w x → z.1.toInt = x) : EndsArith i s w x p := by
  have hset (c : Cc) : (u.setCc c).maskOverflow = s.maskOverflow := hm
  refine ⟨fun h => ⟨_, ?_, hp _⟩, fun h hs => ⟨_, ?_, hp _⟩, fun h hs => ⟨_, ?_, hp _⟩⟩
  · simp only [he, finishArith, hov.2 h, ccArith, ccS_eq, hv h]
    rfl
  all_goals
    have ht : z.2 = true := by rwa [← Bool.not_eq_false, hov]
    simp only [he, finishArith, ht, ccArith, hset, hs]
    rfl

/-- The end of a left shift: the exact product, its overflow and its value. -/
theorem endsArith_shiftLeftA {i : Instr} {s u : State} {k n : Nat} {v : BitVec (k + 1)} {p : Cc → State → Prop}
    (he : exec i s = finishArith (shiftLeftA v n) u) (hp : ∀ c, p c (u.setCc c))
    (hm : u.maskOverflow = s.maskOverflow) : EndsArith i s (k + 1) (v.toInt * 2 ^ min n k) p :=
  endsArith_of_value he hp hm
    (by rw [shiftLeftA_snd, inRange_mul_two_pow (Nat.min_le_right n k)]) (toInt_shiftLeftA v)

/-- Settles O24: a left shift is an exact product and a right shift an exact quotient. -/
theorem shiftsArithmetic : Obligations.ShiftsArithmetic := by
  intro s r1 b2 d2 n v w h
  refine ⟨?sla, ?slas, ?sra, ?sras, fun heven => ?double⟩
  case sla =>
    rw [show BitVec.ofBool v.msb ++ (v.extractLsb' 0 31 <<< n) = _ from (shiftLeftA_fst (k := 31) v n).symm]
    exact endsArith_shiftLeftA (k := 31) rfl (fun c => regResult_setReg_setCc s r1 _ c) rfl
  case slas =>
    rw [show BitVec.ofBool h.msb ++ (h.extractLsb' 0 15 <<< n) = _ from (shiftLeftA_fst (k := 15) h n).symm]
    exact endsArith_shiftLeftA (k := 15) rfl (fun c => loResult_setLo_setCc s r1 _ c) rfl
  case sra =>
    rw [← ccS_shiftRightA, ← shiftRightA_eq]
    exact completes_setReg_setCc rfl rfl
  case sras =>
    rw [← ccS_shiftRightA, ← shiftRightA_eq]
    exact completes_setLo_setCc rfl rfl rfl
  case double =>
    have hpair : s.pair r1 = w := s.pair_even heven
    rw [← hpair]
    refine ⟨?slda, ?srda⟩
    case slda =>
      rw [show BitVec.ofBool (s.pair r1).msb ++ ((s.pair r1).extractLsb' 0 63 <<< n) = _ from
        (shiftLeftA_fst (k := 63) (s.pair r1) n).symm]
      exact endsArith_shiftLeftA (k := 63) (needEven_even heven _) (fun c => pairResult_setPair_setCc s heven _ c) rfl
    case srda =>
      rw [← ccS_shiftRightA, ← shiftRightA_eq]
      exact completes_setPair_setCc (needEven_even heven _) heven rfl rfl

end Sys2Proof.Machine
end

section
/-! PROOFS.
The instructions that store registers or operate on one byte (spec/40_fixed_point.md, spec/42_logical.md): what a store leaves
is said once, and an instruction's part is the bytes it stores.
-/
namespace Sys2Proof.Machine

/-! ## Stores -/

/-- An instruction that only stores bytes. -/
theorem completes_setBytes {i : Instr} {s : State} {a : Addr} {bs : List Byte} (he : exec i s = .next (s.setBytes a bs))
    (hn : bs.length ≤ 2 ^ 20) : Completes i s (StoreResult s a bs s.psw.cc) :=
  ⟨_, he, storeResult_setBytes s a bs hn⟩

/-- An instruction that stores bytes and sets the condition code. -/
theorem completes_setBytes_setCc {i : Instr} {s : State} {a : Addr} {bs : List Byte} {c d : Cc}
    (he : exec i s = .next ((s.setBytes a bs).setCc c)) (hn : bs.length ≤ 2 ^ 20) (hc : c = d) :
    Completes i s (StoreResult s a bs d) := by
  subst hc
  exact ⟨_, he, storeResult_setBytes_setCc s a bs hn c⟩

theorem slice_append_left (a b : Word) : slice (a ++ b : Dword) 0 32 = a := BitVec.extractLsb'_append_eq_left

theorem slice_append_right (a b : Word) : slice (a ++ b : Dword) 32 32 = b := BitVec.extractLsb'_append_eq_right

theorem bytesOfDword_append (a b : Word) : bytesOfDword (a ++ b) = bytesOfWord a ++ bytesOfWord b := by
  rw [bytesOfDword, slice_append_left, slice_append_right]

theorem State.bytesOfHalf_lo (s : State) (r : Reg) :
    bytesOfHalf (s.lo r) = [slice (s.reg r) 16 8, slice (s.reg r) 24 8] := by
  rw [bytesOfHalf, State.lo, slice_slice _ _ _ _ _ (by decide) (by decide), slice_slice _ _ _ _ _ (by decide) (by decide)]

/-- Settles O22: each instruction stores the bytes of its register, or of the instruction. -/
theorem storesRegister : Obligations.StoresRegister := by
  intro s r1 x2 b2 d2 i2 a part word
  refine ⟨fun hq hw => ?st, fun hq hw => ?sth, fun hq hw => ?stc, fun heven hq hw => ?std, fun hfp hq hw => ?ste,
    fun hq hw => ?mvi⟩
  case st =>
    refine completes_setBytes (bs := bytesOfWord (s.reg r1)) ((afterStoreCheck_writable hw _).trans ?_) (by simp [bytesOfWord])
    rw [State.writeWord_quiet hq, State.setWord]
  case sth =>
    refine completes_setBytes (bs := [part (s.reg r1) 2, part (s.reg r1) 3])
      ((afterStoreCheck_writable hw _).trans ?_) (by simp)
    rw [State.writeHalf_quiet hq, State.setHalf, State.bytesOfHalf_lo]
    rfl
  case stc =>
    refine completes_setBytes ((afterStoreCheck_writable hw _).trans ?_) (by simp)
    rw [State.writeByte_quiet hq]
    rfl
  case std =>
    refine completes_setBytes (bs := bytesOfWord (s.reg r1) ++ bytesOfWord (s.reg (r1 + 1#4)))
      ((afterStoreCheck_writable hw _).trans ?_) (by simp [bytesOfWord])
    rw [needEven_even heven, State.writeDword_quiet hq, State.setDword, s.pair_even heven, bytesOfDword_append]
  case ste =>
    refine completes_setBytes (bs := bytesOfWord (s.fp r1)) ((afterStoreCheck_writable hw _).trans ?_) (by simp [bytesOfWord])
    rw [needFp_fp hfp, State.writeWord_quiet hq, State.setWord]
  case mvi =>
    refine completes_setBytes ((afterStoreCheck_writable hw _).trans ?_) (by simp)
    rw [State.writeByte_quiet hq]
    rfl

/-! ## One byte -/

/-- A test under mask, by what the mask selects (R236). -/
theorem ccMask_eq {w : Nat} (v mask : BitVec w) :
    ccMask v mask = if mask &&& v = 0#w then 0 else if mask &&& ~~~v = 0#w then 3 else 1 := by
  rw [ccMask, if_congr (and_eq_right_iff_and_not v mask) rfl rfl, BitVec.and_comm v mask]
  rfl

/-- An instruction that replaces a byte by its connective with the immediate byte (R226). -/
theorem completes_connectByte {i : Instr} {s : State} {f : Byte → Byte → Byte} {a : Addr} {i2 : Byte}
    (he : exec i s = connectByte f a i2 s) (hq : s.dma = []) (hw : s.Writable a 1 1) :
    Completes i s (StoreResult s a [f (s.byte a) i2] (if f (s.byte a) i2 = 0#8 then 0 else 1)) := by
  refine completes_setBytes_setCc (he.trans ((afterStoreCheck_writable hw _).trans ?_)) (by simp) rfl
  rw [State.readByte_quiet hq]
  simp only [State.writeByte_quiet hq]
  rfl

theorem execTs_quiet {s : State} {b : Reg} {d : Disp} (hq : s.dma = []) (hw : s.Writable (s.ea b d) 1 1) :
    execTs b d s = .next ((s.setByte (s.ea b d) 0xFF#8).setCc (if (s.byte (s.ea b d)).msb then 1 else 0)) := by
  simp only [execTs, (State.storeError_none s _ 1 1).2 hw, State.readByte_quiet hq]

/-- Settles O34: the connectives end alike, and CLI and TM only set the condition code. -/
theorem operatesOnByte : Obligations.OperatesOnByte := by
  intro s i2 b1 d1 a v nz
  refine ⟨fun hq hw => ⟨?ni, ?oi, ?xi, ?ts⟩, fun hq hr => ⟨?cli, ?tm⟩⟩
  case ni => exact completes_connectByte rfl hq hw
  case oi => exact completes_connectByte rfl hq hw
  case xi => exact completes_connectByte rfl hq hw
  case ts => exact completes_setBytes_setCc (bs := [0xFF#8]) (execTs_quiet hq hw) (by simp) rfl
  case cli => exact completes_ccCompare (withByte_quiet hq hr _ _)
  case tm =>
    rw [← ccMask_eq]
    exact ⟨_, withByte_quiet hq hr _ _, ccResult_setCc s _⟩

/-! ## Several registers -/

theorem reg_add_succ (r : Reg) (k : Nat) : r + 1#4 + BitVec.ofNat 4 k = r + BitVec.ofNat 4 (k + 1) := by
  rw [BitVec.add_assoc, BitVec.ofNat_add, BitVec.add_comm 1#4]

theorem addr_add_word (a : Addr) (k : Nat) : a + 4#20 + BitVec.ofNat 20 k = a + BitVec.ofNat 20 (4 + k) := by
  rw [BitVec.add_assoc, BitVec.ofNat_add]

/-- The state after `n` words from `a` on have been loaded into the registers from `r` on (R157). -/
structure LoadedRegs (s : State) (r : Reg) (a : Addr) (n : Nat) (t : State) : Prop where
  loaded : ∀ k, k < n → t.reg (r + BitVec.ofNat 4 k) = s.word (a + BitVec.ofNat 20 (4 * k))
  others : ∀ q : Reg, n ≤ (q - r).toNat → t.reg q = s.reg q
  frame : t = { s with gr := t.gr }

/-- How far a register is from the next one. -/
theorem reg_sub_succ {q r : Reg} {n : Nat} (h : n + 1 ≤ (q - r).toNat) : n ≤ (q - (r + 1#4)).toNat ∧ q ≠ r := by
  refine ⟨?_, ?_⟩
  · bv_omega
  · rintro rfl
    simp at h

theorem loadedRegs_loadRegs (n : Nat) (hn : n ≤ 16) (s : State) (r : Reg) (a : Addr) (hq : s.dma = []) :
    LoadedRegs s r a n (loadRegs r a n s) := by
  induction n generalizing s r a with
  | zero => exact ⟨nofun, fun _ _ => rfl, rfl⟩
  | succ n ih =>
    have hstep : loadRegs r a (n + 1) s = loadRegs (r + 1#4) (a + 4#20) n (s.setReg r (s.word a)) := by
      rw [loadRegs, State.readWord_quiet hq]
    obtain ⟨hin, hout, hframe⟩ := ih (by omega) (s.setReg r (s.word a)) (r + 1#4) (a + 4#20) hq
    rw [hstep]
    refine ⟨fun k hk => ?_, fun q h => ?_, hframe⟩
    · cases k with
      | zero =>
        rw [BitVec.add_zero, hout r (by bv_omega), State.reg_setReg_self]
        simp
      | succ k =>
        have := hin k (by omega)
        rw [reg_add_succ, addr_add_word] at this
        rw [this, show 4 * (k + 1) = 4 + 4 * k by omega]
        rfl
    · obtain ⟨hlater, hne⟩ := reg_sub_succ h
      rw [hout q hlater, State.reg_setReg_ne s _ hne]

/-- The state after the registers from `r` on have been stored in `n` words from `a` on (R189). -/
structure StoredRegs (s : State) (r : Reg) (a : Addr) (n : Nat) (t : State) : Prop where
  stored : ∀ k, k < n → t.word (a + BitVec.ofNat 20 (4 * k)) = s.reg (r + BitVec.ofNat 4 k)
  others : SameStorageBut a (4 * n) s t
  frame : t = { s with mem := t.mem }

theorem storedRegs_storeRegs (n : Nat) (hn : n ≤ 16) (s : State) (r : Reg) (a : Addr) (hq : s.dma = []) :
    StoredRegs s r a n (storeRegs r a n s) := by
  induction n generalizing s r a with
  | zero => exact ⟨nofun, fun _ _ => rfl, rfl⟩
  | succ n ih =>
    have hstep : storeRegs r a (n + 1) s = storeRegs (r + 1#4) (a + 4#20) n (s.setWord a (s.reg r)) := by
      rw [storeRegs, State.writeWord_quiet hq]
    obtain ⟨hin, hout, hframe⟩ := ih (by omega) (s.setWord a (s.reg r)) (r + 1#4) (a + 4#20) (by simpa using hq)
    rw [hstep]
    refine ⟨fun k hk => ?_, fun x hx => ?_, ?_⟩
    · cases k with
      | zero =>
        rw [BitVec.add_zero, BitVec.add_zero]
        refine Eq.trans (State.word_congr fun j hj => hout _ fun k hk => ?_) (s.word_setWord a (s.reg r))
        rw [addr_add_word]
        exact addr_ofNat_ne (by omega) (by omega) (by omega)
      | succ k =>
        have := hin k (by omega)
        rw [reg_add_succ, addr_add_word] at this
        rw [show 4 * (k + 1) = 4 + 4 * k by omega, this]
        simp
    · have hlater := hout x fun k hk => by
        rw [addr_add_word]
        exact hx (4 + k) (by omega)
      rw [hlater]
      exact State.byte_setBytes_out s a x _ fun k hk => hx k (by simp [bytesOfWord] at hk; omega)
    · rw [hframe, State.setWord, State.setBytes_eq]

theorem State.Installed.mono {s : State} {a : Addr} {m n : Nat} (h : s.Installed a n) (hmn : m ≤ n) : s.Installed a m :=
  fun k hk => h k (by omega)

/-- Words that can all be stored are stored without an exception (R189). -/
theorem State.storeWordsError_none {s : State} {a : Addr} {n : Nat} (h : s.Writable a (4 * n) 4) (hn : 4 * n ≤ 2 ^ 20) :
    s.storeWordsError a n = none := by
  induction n generalizing a with
  | zero => rfl
  | succ n ih =>
    obtain ⟨⟨hin, hal⟩, hun⟩ := h
    have hfirst : s.storeError a 4 4 = none :=
      (s.storeError_none a 4 4).2 ⟨⟨hin.mono (by omega), hal⟩, fun k hk => hun k (by omega)⟩
    simp only [State.storeWordsError, hfirst]
    refine ih ⟨⟨fun k hk => ?_, by bv_omega⟩, fun k hk => ?_⟩ (by omega)
    · rw [addr_add_word]
      exact hin (4 + k) (by omega)
    · rw [addr_add_word]
      exact hun (4 + k) (by omega)

/-- Settles O23: register by register, as many as the register numbers say. -/
theorem movesMultiple : Obligations.MovesMultiple := by
  intro s r1 r3 b2 d2 a n at_
  have hn : n ≤ 16 := by have := (r3 - r1).isLt; omega
  refine ⟨fun hq hr => ?lm, fun hq hw => ?stm⟩
  case lm =>
    obtain ⟨hin, hout, hframe⟩ := loadedRegs_loadRegs n hn s r1 a hq
    have hfirst : s.Readable a 4 4 := ⟨hr.1.mono (by omega), hr.2⟩
    refine ⟨_, (afterLoad_readable hfirst _ _).trans (afterLoad_readable hr _ _), hin, hout, hframe, fun x => ?_⟩
    exact (congrArg (fun u => State.byte u x) hframe).trans rfl
  case stm =>
    obtain ⟨hin, hout, hframe⟩ := storedRegs_storeRegs n hn s r1 a hq
    refine ⟨_, ?_, hin, hout, hframe⟩
    show execStm r1 r3 b2 d2 s = _
    have : s.storeWordsError a n = none := State.storeWordsError_none hw (by omega)
    simp only [execStm]
    rw [show s.storeWordsError (s.ea b2 d2) (regCount r1 r3) = none from this]
    rfl

end Sys2Proof.Machine
end

section
/-! PROOFS.
Radix conversion (spec/40_fixed_point.md): numbers as sums of digits times powers of a base, read digit by digit from the
left by the model, weighted from the right by the statement.
-/
namespace Sys2Proof.Machine

/-! ## Digits -/

/-- The number whose digit of weight `b ^ k` is `f k`, for `n` digits. -/
def ofDigitFn (b n : Nat) (f : Nat → Nat) : Nat := ((List.range n).map fun k => f k * b ^ k).sum

@[simp] theorem ofDigitFn_zero (b : Nat) (f : Nat → Nat) : ofDigitFn b 0 f = 0 := rfl

theorem ofDigitFn_succ (b n : Nat) (f : Nat → Nat) : ofDigitFn b (n + 1) f = ofDigitFn b n f + f n * b ^ n := by
  simp [ofDigitFn, List.range_succ]

/-- Reading the digits from the left, after digits that make `x`. -/
theorem foldl_digits (b n : Nat) (f : Nat → Nat) (x : Nat) :
    ((List.range n).map fun k => f (n - 1 - k)).foldl (fun x d => b * x + d) x = x * b ^ n + ofDigitFn b n f := by
  induction n generalizing x with
  | zero => simp
  | succ n ih =>
    have hrest : (fun k => f (n + 1 - 1 - k)) ∘ Nat.succ = fun k => f (n - 1 - k) := by
      funext k
      simp only [Function.comp]
      congr 1
      omega
    rw [List.range_succ_eq_map, List.map_cons, List.map_map, hrest, List.foldl_cons, ih, ofDigitFn_succ]
    simp only [Nat.add_sub_cancel, Nat.sub_zero]
    ring

theorem ofDigitFn_lt {b n : Nat} {f : Nat → Nat} (hf : ∀ k, k < n → f k < b) : ofDigitFn b n f < b ^ n := by
  induction n with
  | zero => simp
  | succ n ih =>
    have hlow := ih fun k hk => hf k (by omega)
    have hhigh : f n * b ^ n ≤ (b - 1) * b ^ n := Nat.mul_le_mul_right _ (by have := hf n (by omega); omega)
    have hb : 0 < b := by have := hf n (by omega); omega
    rw [ofDigitFn_succ, pow_succ]
    have : b ^ n * b = (b - 1) * b ^ n + b ^ n := by
      obtain ⟨c, rfl⟩ : ∃ c, b = c + 1 := ⟨b - 1, by omega⟩
      simp only [Nat.add_sub_cancel]
      ring
    omega

/-- The digit of weight `b ^ k`. -/
theorem digit_ofDigitFn {b n k : Nat} {f : Nat → Nat} (hf : ∀ j, j < n → f j < b) (hk : k < n) :
    ofDigitFn b n f / b ^ k % b = f k := by
  induction n with
  | zero => omega
  | succ n ih =>
    have hlow := ofDigitFn_lt fun j (hj : j < n) => hf j (by omega)
    have hb : 0 < b := by have := hf k hk; omega
    rw [ofDigitFn_succ]
    obtain rfl | hkn := Nat.eq_or_lt_of_le (Nat.lt_succ_iff.1 hk)
    · rw [Nat.add_mul_div_right _ _ (by positivity), Nat.div_eq_of_lt hlow, Nat.zero_add, Nat.mod_eq_of_lt (hf k hk)]
    · have hsplit : f n * b ^ n = f n * b ^ (n - k - 1) * b * b ^ k := by
        have : b ^ n = b ^ (n - k - 1) * b * b ^ k := by rw [← pow_succ, ← pow_add]; congr 1; omega
        rw [this]
        ring
      rw [hsplit, Nat.add_mul_div_right _ _ (by positivity), Nat.add_mul_mod_self_right]
      exact ih (fun j hj => hf j (by omega)) hkn

/-- A number is made of its digits, as far as there are places. -/
theorem ofDigitFn_digits (b n m : Nat) : ofDigitFn b n (fun k => m / b ^ k % b) = m % b ^ n := by
  induction n with
  | zero => simp [Nat.mod_one]
  | succ n ih => rw [ofDigitFn_succ, ih, Nat.mod_pow_succ, Nat.mul_comm]

/-! ## Packed decimal double words -/

theorem decimalMagnitude_eq (w : Dword) : decimalMagnitude w = ofDigitFn 10 15 (decimalDigit w) := rfl

/-- The digit codes from the left. -/
theorem packedDigits_eq (w : Dword) : packedDigits w = (List.range 15).map fun k => decimalDigit w (15 - 1 - k) := by
  refine List.map_congr_left fun k hk => ?_
  have hk : k < 15 := List.mem_range.1 hk
  rw [slice, decimalDigit, show 64 - 4 * k - 4 = 4 * (15 - 1 - k + 1) by omega]

theorem packedSign_eq (w : Dword) : packedSign w = (decimalSign w).toNat := rfl

theorem packedValid_iff (w : Dword) : packedValid w = true ↔ DecimalValid w := by
  rw [packedValid, packedDigits_eq, packedSign_eq, Bool.and_eq_true, decide_eq_true_eq, List.all_eq_true, DecimalValid]
  refine and_congr ⟨fun h k hk => ?_, fun h d hd => ?_⟩ Iff.rfl
  · have := h (decimalDigit w k) (List.mem_map.2 ⟨14 - k, List.mem_range.2 (by omega), by congr 1; omega⟩)
    simpa using this
  · obtain ⟨k, hk, rfl⟩ := List.mem_map.1 hd
    simpa using h (15 - 1 - k) (by omega)

theorem packedValue_eq (w : Dword) : packedValue w = decimalNumber w := by
  have hm : (packedDigits w).foldl (fun x d => 10 * x + d) 0 = decimalMagnitude w := by
    rw [packedDigits_eq, foldl_digits, decimalMagnitude_eq, Nat.zero_mul, Nat.zero_add]
  have hs (n : Nat) (hn : n < 16) : packedSign w = n ↔ decimalSign w = BitVec.ofNat 4 n := by
    rw [packedSign_eq, ← BitVec.toNat_inj, BitVec.toNat_ofNat, Nat.mod_eq_of_lt hn]
  simp only [packedValue, decimalNumber, hm]
  rw [if_congr (or_congr (hs 11 (by decide)) (hs 13 (by decide))) rfl rfl]

/-! ## The double word of a number -/

/-- The fifteen decimal digits of a number as hexadecimal ones (R185). -/
def decimalCode (m : Nat) : Nat := ofDigitFn 16 15 fun k => m / 10 ^ k % 10

theorem decimalCode_lt (m : Nat) : decimalCode m < 16 ^ 15 :=
  ofDigitFn_lt fun k _ => lt_trans (Nat.mod_lt _ (by decide)) (by decide)

theorem signCode_lt (a n : Bool) : signCode a n < 16 := by
  cases a <;> cases n <;> decide

theorem toNat_packDecimal (ascii : Bool) (v : Word) :
    (packDecimal ascii v).toNat = 16 * decimalCode v.toInt.natAbs + signCode ascii (decide (v.toInt < 0)) := by
  have hcode := decimalCode_lt v.toInt.natAbs
  have hsign := signCode_lt ascii (decide (v.toInt < 0))
  have hdigits : (List.map (fun k => v.toInt.natAbs / 10 ^ (14 - k) % 10) (List.range 15)).foldl
      (fun x d => 16 * x + d) 0 = decimalCode v.toInt.natAbs := by
    rw [decimalCode, ← Nat.zero_add (ofDigitFn _ _ _), ← Nat.zero_mul (16 ^ 15)]
    exact foldl_digits 16 15 (fun k => v.toInt.natAbs / 10 ^ k % 10) 0
  simp only [packDecimal, hdigits, BitVec.toNat_ofNat]
  exact Nat.mod_eq_of_lt (by norm_num at hcode ⊢; omega)

theorem decimalDigit_packDecimal (ascii : Bool) (v : Word) {k : Nat} (hk : k < 15) :
    decimalDigit (packDecimal ascii v) k = v.toInt.natAbs / 10 ^ k % 10 := by
  have hdigit : decimalCode v.toInt.natAbs / 16 ^ k % 16 = v.toInt.natAbs / 10 ^ k % 10 :=
    digit_ofDigitFn (f := fun k => v.toInt.natAbs / 10 ^ k % 10)
      (fun j _ => lt_trans (Nat.mod_lt _ (by decide)) (by decide)) hk
  have hsign := signCode_lt ascii (decide (v.toInt < 0))
  have hdrop : (16 * decimalCode v.toInt.natAbs + signCode ascii (decide (v.toInt < 0))) / 16 =
      decimalCode v.toInt.natAbs := by omega
  rw [← hdigit, decimalDigit, BitVec.extractLsb'_toNat, toNat_packDecimal, Nat.shiftRight_eq_div_pow,
    show 2 ^ (4 * (k + 1)) = 16 * 16 ^ k by rw [Nat.mul_succ, pow_add, pow_mul]; norm_num; ring,
    ← Nat.div_div_eq_div_mul, hdrop]

theorem decimalSign_packDecimal (ascii : Bool) (v : Word) :
    decimalSign (packDecimal ascii v) = BitVec.ofNat 4 (signCode ascii v.msb) := by
  apply BitVec.eq_of_toNat_eq
  rw [decimalSign, BitVec.extractLsb'_toNat, toNat_packDecimal, BitVec.msb_eq_toInt, BitVec.toNat_ofNat]
  simp only [Nat.shiftRight_zero]
  omega

theorem decimalMagnitude_packDecimal (ascii : Bool) (v : Word) :
    decimalMagnitude (packDecimal ascii v) = v.toInt.natAbs := by
  have hdigits : decimalMagnitude (packDecimal ascii v) = ofDigitFn 10 15 fun k => v.toInt.natAbs / 10 ^ k % 10 := by
    rw [decimalMagnitude_eq, ofDigitFn, ofDigitFn]
    congr 1
    exact List.map_congr_left fun k hk => by rw [decimalDigit_packDecimal ascii v (List.mem_range.1 hk)]
  have hlow := v.le_toInt
  have hhigh := v.toInt_lt
  rw [hdigits, ofDigitFn_digits]
  exact Nat.mod_eq_of_lt (by norm_num at hlow hhigh ⊢; omega)

theorem decimalValid_packDecimal (ascii : Bool) (v : Word) : DecimalValid (packDecimal ascii v) := by
  refine ⟨fun k hk => ?_, ?_⟩
  · rw [decimalDigit_packDecimal ascii v hk]
    omega
  · rw [decimalSign_packDecimal]
    cases ascii <;> cases v.msb <;> decide

theorem decimalNumber_packDecimal (ascii : Bool) (v : Word) : decimalNumber (packDecimal ascii v) = v.toInt := by
  have hneg : (decimalSign (packDecimal ascii v) = 11#4 ∨ decimalSign (packDecimal ascii v) = 13#4) ↔ v.toInt < 0 := by
    rw [decimalSign_packDecimal, ← decide_eq_true_iff (p := v.toInt < 0), ← BitVec.msb_eq_toInt]
    cases ascii <;> cases v.msb <;> decide
  rw [decimalNumber, if_congr hneg rfl rfl, decimalMagnitude_packDecimal]
  split <;> omega

/-- Settles O21: the model's digits are the statement's, and the double word it makes has the digits of the number. -/
theorem convertsRadix : Obligations.ConvertsRadix := by
  intro s r1 x2 b2 d2 a w
  refine ⟨fun hq hr => ?cvb, fun hq hw => ?cvd⟩
  case cvb =>
    have hcvb : exec (.cvb r1 x2 b2 d2) s = if !packedValid w then raise .data s else
        if fits 32 (packedValue w) then .next (s.setReg r1 (BitVec.ofInt 32 (packedValue w)))
        else raise .fixedDivide (s.setReg r1 (BitVec.ofInt 32 (packedValue w))) := withDword_quiet hq hr _ _
    rw [packedValue_eq] at hcvb
    refine ⟨fun hv hfit => ?fit, fun hv hfit => ?unfit, fun hv => ?invalid⟩
    case fit =>
      rw [(packedValid_iff w).2 hv, (fits_iff 32 _).2 hfit] at hcvb
      exact completes_setReg hcvb rfl
    case unfit =>
      rw [(packedValid_iff w).2 hv, not_fits hfit] at hcvb
      exact ⟨_, hcvb, regResult_setReg s r1 _⟩
    case invalid =>
      rw [← packedValid_iff, Bool.not_eq_true] at hv
      rw [hv] at hcvb
      exact hcvb
  case cvd =>
    refine ⟨packDecimal s.psw.a (s.reg r1), decimalValid_packDecimal _ _, decimalNumber_packDecimal _ _, ?sign,
      s.setDword a (packDecimal s.psw.a (s.reg r1)), ?exec, s.dword_setDword a _, by simp,
      fun x hx => s.byte_setDword_out a x _ hx, fun q _ => by simp, by simp, ?frame⟩
    case sign =>
      rw [decimalSign_packDecimal]
      cases s.psw.a <;> cases (s.reg r1).msb <;> rfl
    case exec =>
      refine (afterStoreCheck_writable hw _).trans ?_
      rw [State.writeDword_quiet hq]
    case frame =>
      rw [State.setDword, State.setBytes_eq]
      rfl

end Sys2Proof.Machine
end

section
/-! PROOFS.
Branches on condition and with link (spec/43_branching.md), status switching and TIMER READ AND SET
(spec/44_status_switching.md).
-/
namespace Sys2Proof.Machine

/-! ## Branches -/

theorem branchResult_setIa (s : State) (a : Addr) : BranchResult s none a (s.setIa a) :=
  ⟨nofun, rfl, fun _ _ => rfl, rfl, fun _ => rfl, rfl⟩

/-- An instruction that only branches to `t` or goes on, which leaves `a` as the instruction address. -/
theorem completes_branchIf {i : Instr} {s : State} {c : Bool} {t a : Addr} (he : exec i s = .next (s.branchIf c t))
    (ha : (if c then t else s.psw.ia) = a) : Completes i s (BranchResult s none a) := by
  rw [State.branchIf_eq] at he
  subst ha
  exact ⟨_, he, branchResult_setIa s _⟩

/-- The mask bit of a condition code, its leftmost bit standing for code 0 (R265). -/
theorem maskBit_iff (m : BitVec 4) (cc : Cc) : m.getLsbD (3 - cc.toNat) = true ↔ m &&& (8#4 >>> cc.toNat) ≠ 0#4 := by
  revert m cc
  decide

/-- Settles O39: the mask selects by the bit of the condition code. -/
theorem branchesOnCondition : Obligations.BranchesOnCondition := by
  intro s m1 r2 x2 b2 d2 selected target
  have hmask : s.maskTaken m1 = true ↔ selected := maskBit_iff m1 s.psw.cc
  have hboth : (r2 != 0#4 && s.maskTaken m1) = true ↔ selected ∧ r2 ≠ 0#4 := by
    rw [Bool.and_eq_true, hmask, bne_iff_ne, and_comm]
  refine ⟨?bc, ?bcr, ?bu, ?bur⟩
  case bc => exact completes_branchIf rfl (if_congr hmask rfl rfl)
  case bcr => exact completes_branchIf rfl (if_congr hboth rfl rfl)
  case bu => exact ⟨_, rfl, branchResult_setIa s _⟩
  case bur => exact ⟨_, rfl, branchResult_setIa s _⟩

/-- Settles O40: the link word is the right half of the PSW. -/
theorem branchesAndLinks : Obligations.BranchesAndLinks := by
  intro s r1 r2 x2 b2 d2 link
  refine ⟨?bal, ?balr⟩
  case bal => exact ⟨_, rfl, branchResult_setReg_setIa s r1 _ _⟩
  case balr => exact completes_setReg_branchIf rfl (ite_of_iff_not bne_iff_ne _ _)

/-! ## The PSW -/

theorem dword_field {n : Nat} {v : Dword} {f : BitVec n} (k : Nat)
    (h : ∀ j, j < n → v.getLsbD (k + j) = f.getLsbD j) : v.extractLsb' k n = f := by
  apply BitVec.eq_of_getLsbD_eq
  intro j hj
  rw [BitVec.getLsbD_extractLsb', decide_eq_true hj, Bool.true_and, h j hj]

/-- The PSW that an old PSW supplies is the one that was stored (R296, R479). -/
theorem Psw.unpack_pack (p : Psw) (code : Half) (ilc : BitVec 2) : Psw.unpack (p.pack code ilc) = p := by
  have field {n : Nat} {f : BitVec n} (k : Nat) (h : ∀ j, j < n → (p.pack code ilc).getLsbD (k + j) = f.getLsbD j) :
      (p.pack code ilc).extractLsb' k n = f := dword_field k h
  have bits (k : Nat) := congrArg (BitVec.getLsbD · k) (p.pack_eq code ilc)
  simp only [BitVec.getLsbD_append] at bits
  cases p
  simp only [Psw.unpack, Psw.mk.injEq]
  refine ⟨?sm, ?key, ?a, ?m, ?w, ?p, ?cc, ?pm, ?b40, ?b41, ?ia⟩
  case sm => exact field 56 fun j hj => by rw [bits]; grind
  case key => exact field 52 fun j hj => by rw [bits]; grind
  case a | m | w | p | b40 => rw [bits]; simp
  case cc => exact field 28 fun j hj => by rw [bits]; grind
  case pm => exact field 24 fun j hj => by rw [bits]; grind
  case b41 => exact field 20 fun j hj => by rw [bits]; grind
  case ia => exact field 0 fun j hj => by rw [bits]; grind

theorem State.Readable.available {s : State} {a : Addr} {n align : Nat} (h : s.Readable a (n + 1) align) :
    s.available a = true :=
  h.1.available (Nat.succ_pos n)

/-- An address on a boundary of an even number of bytes is even. -/
theorem getLsbD_zero_of_mod {a : Addr} {align : Nat} (h : a.toNat % (2 * align) = 0) : a.getLsbD 0 = false := by
  have heven : a.toNat % 2 = 0 := by
    rw [← Nat.mod_mul_right_mod a.toNat 2 align, h]
  simp [BitVec.getLsbD, Nat.testBit_zero, heven]

theorem execLpsw_quiet {s : State} {b : Reg} {d : Disp} (hq : s.dma = []) (hp : s.psw.p = false)
    (hr : s.Readable (s.ea b d) 1 8) :
    execLpsw b d s = .next { s with psw := Psw.unpack (s.dword (s.ea b d)) } := by
  have hodd : (s.ea b d).getLsbD 0 = false := getLsbD_zero_of_mod (align := 4) hr.2
  simp only [execLpsw, hr.available, hodd, needSupervisor_supervisor hp, hr.2, State.readDword_quiet hq]
  rfl

/-- Settles O43: LPSW unpacks the double word, and the one that an interruption packed unpacks to the PSW before it. -/
theorem loadPswReturns : Obligations.LoadPswReturns := by
  refine ⟨?loads, ?returns⟩
  case loads =>
    intro s b1 d1 a w hq hp hr
    exact ⟨_, execLpsw_quiet hq hp hr, rfl, rfl⟩
  case returns =>
    intro s u c code ilc b1 d1 hc hq hp ha hin hold
    rw [← ha] at hin
    have halign : (u.ea b1 d1).toNat % 8 = 0 := by
      rw [ha]
      cases c <;> rfl
    refine ⟨_, execLpsw_quiet hq hp ⟨hin, halign⟩, ?_⟩
    show Psw.unpack (u.dword (u.ea b1 d1)) = s.psw
    rw [ha, hold, s.interrupt_oldLoc, State.oldPsw, if_neg hc, Psw.unpack_pack]

/-- Settles O44: the masks and the key are single fields of the state. -/
theorem setsMasksAndKeys : Obligations.SetsMasksAndKeys := by
  intro s r1 r2 b1 d1 v block
  refine ⟨⟨_, rfl, rfl, fun _ => rfl⟩, fun hq hp hin => ?ssm, fun hp hin => ?ssk⟩
  case ssm =>
    refine ⟨s.setSm (s.byte (s.ea b1 d1)), ?_, rfl, fun _ => rfl⟩
    refine (afterLoad_readable ⟨hin, Nat.mod_one _⟩ _ _).trans ?_
    rw [needSupervisor_supervisor hp, State.readByte_quiet hq]
  case ssk =>
    refine ⟨s.access.setKey block (v.extractLsb' 0 2), ?_, ?_, fun b hb => ?_, rfl, fun _ => rfl⟩
    · exact (needSupervisor_supervisor hp _).trans (if_neg (Nat.not_le.2 hin))
    · rw [State.key_setKey, if_pos rfl]
    · rw [State.key_setKey, if_neg hb, State.access_key]

/-- Zeros on the left widen. -/
theorem zero_append {m n : Nat} (v : BitVec n) : 0#m ++ v = v.setWidth (m + n) := by
  have hlt : v.toNat < 2 ^ (m + n) := lt_of_lt_of_le v.isLt (Nat.pow_le_pow_right (by decide) (by omega))
  apply BitVec.eq_of_toNat_eq
  simp [BitVec.toNat_append, Nat.mod_eq_of_lt hlt]

/-- Settles O45: SVC takes the interruption of its class. -/
theorem supervisorCallInterrupts : Obligations.SupervisorCallInterrupts := by
  intro s code u
  have hcode : code.setWidth 16 = 0#8 ++ code := (zero_append (m := 8) code).symm
  have hilc : s.shortIlc = if s.inExecute then 2#2 else 1#2 := rfl
  refine ⟨_, rfl, ?old, s.interrupt_psw _ _ _, ?key0, fun b hb => ?key, fun x hx => s.interrupt_byte_out _ _ _ x hx,
    s.interrupt_frame _ _ _⟩
  case old =>
    refine (s.interrupt_oldLoc .supervisorCall _ _).trans ?_
    rw [State.oldPsw, if_neg (by decide), Psw.pack_eq, hcode, hilc]
    simp only [BitVec.append_assoc, BitVec.cast_eq]
  case key0 => rw [State.interrupt_key, if_pos rfl]
  case key => rw [State.interrupt_key, if_neg hb]

/-! ## TIMER READ AND SET -/

theorem afterControlCheck_readable {s : State} {a : Addr} (h : s.Readable a 1 2) (k : Result) :
    afterControlCheck s a k = k := by
  rw [afterControlCheck, h.available, getLsbD_zero_of_mod (align := 1) h.2]
  rfl

theorem State.setTimer_clock {s : State} (hq : s.dma = []) (a : Addr) :
    s.setTimer false a = { s with rtc := s.word a } := by
  simp [State.setTimer, State.readHalf_quiet hq, State.word]

theorem State.setTimer_timer {s : State} (hq : s.dma = []) (a : Addr) :
    s.setTimer true a = { s with intimer := s.half a } := by
  simp [State.setTimer, State.readHalf_quiet hq]

theorem setWidth_half (v : Half) : v.setWidth 32 = 0#16 ++ v := (zero_append (m := 16) v).symm

section
variable {s : State} {fn : BitVec 4} {r3 b2 : Reg} {d2 : Disp} (hfn : fn.toNat ≤ 3) (hr : s.Readable (s.ea b2 d2) 1 2)
include hfn hr

/-- TMRS with a function code that is defined, past the checks of its operand (R306). -/
theorem exec_tmrs :
    exec (.tmrs fn r3 b2 d2) s =
      if (fn.getLsbD 1 && s.psw.p) = true then raise .privileged s
      else if (fn.getLsbD 1 && !fn.getLsbD 0 && !s.available (s.ea b2 d2 + 2#20)) = true then raise .addressing s
      else .next ((if fn.getLsbD 1 then s.setTimer (fn.getLsbD 0) (s.ea b2 d2) else s).setReg r3
        (s.timerValue (fn.getLsbD 0))) := by
  show execTmrs fn r3 b2 d2 s = _
  rw [execTmrs, if_neg (Nat.not_lt.2 hfn)]
  exact afterControlCheck_readable hr _

theorem exec_tmrs_read (h1 : fn.getLsbD 1 = false) {v : Word} (hv : s.timerValue (fn.getLsbD 0) = v) :
    exec (.tmrs fn r3 b2 d2) s = .next (s.setReg r3 v) := by
  rw [exec_tmrs hfn hr, h1, hv]
  rfl

theorem exec_tmrs_set (h1 : fn.getLsbD 1 = true) (hp : s.psw.p = false)
    (hav : fn.getLsbD 0 = true ∨ s.available (s.ea b2 d2 + 2#20) = true) {t : State} {v : Word}
    (ht : s.setTimer (fn.getLsbD 0) (s.ea b2 d2) = t) (hv : s.timerValue (fn.getLsbD 0) = v) :
    exec (.tmrs fn r3 b2 d2) s = .next (t.setReg r3 v) := by
  have hsecond : ¬((true && !fn.getLsbD 0 && !s.available (s.ea b2 d2 + 2#20)) = true) := by
    rcases hav with h | h <;> simp [h]
  rw [exec_tmrs hfn hr, h1, hp, if_neg (by decide), if_neg hsecond, if_pos rfl, ht, hv]

theorem exec_tmrs_privileged (h1 : fn.getLsbD 1 = true) (hp : s.psw.p = true) :
    exec (.tmrs fn r3 b2 d2) s = raise .privileged s := by
  rw [exec_tmrs hfn hr, h1, hp]
  exact if_pos rfl

end

/-- Settles O46: a function code is the choice of the register and of setting it. -/
theorem timerReadAndSet : Obligations.TimerReadAndSet := by
  intro s r3 b2 d2 a frame hr
  have hset (t : State) (v : Word) (h : t.gr = s.gr ∧ t.mem = s.mem) :
      (t.setReg r3 v).reg r3 = v ∧ frame (t.setReg r3 v) := by
    obtain ⟨hgr, hmem⟩ := h
    refine ⟨State.reg_setReg_self t r3 v, fun q hne => ?_, fun x => ?_⟩
    · rw [State.reg_setReg_ne t v (by simpa using hne), State.reg, hgr, State.reg]
    · rw [State.setReg_byte, State.byte, hmem, State.byte]
  refine ⟨?f0, ?f1, fun hq hp hin => ?f2, fun hq hp => ?f3⟩
  case f0 =>
    obtain ⟨hv, hf⟩ := hset s s.rtc ⟨rfl, rfl⟩
    exact ⟨_, exec_tmrs_read (by decide) hr (by decide) rfl, hv, hf, rfl⟩
  case f1 =>
    obtain ⟨hv, hf⟩ := hset s (s.intimer.setWidth 32) ⟨rfl, rfl⟩
    exact ⟨_, exec_tmrs_read (by decide) hr (by decide) rfl, hv.trans (setWidth_half _), hf, rfl⟩
  case f2 =>
    obtain ⟨hv, hf⟩ := hset { s with rtc := s.word a } s.rtc ⟨rfl, rfl⟩
    exact ⟨_, exec_tmrs_set (by decide) hr (by decide) hp (.inr (hin.available (by decide))) (State.setTimer_clock hq a) rfl,
      hv, hf, rfl⟩
  case f3 =>
    obtain ⟨hv, hf⟩ := hset { s with intimer := s.half a } (s.intimer.setWidth 32) ⟨rfl, rfl⟩
    exact ⟨_, exec_tmrs_set (by decide) hr (by decide) hp (.inl (by decide)) (State.setTimer_timer hq a) rfl,
      hv.trans (setWidth_half _), hf, rfl⟩

/-! ## Privilege -/

/-- Settles O48: where the checks before it pass, privilege is the next one. -/
theorem privilegedNeedsSupervisor : Obligations.PrivilegedNeedsSupervisor := by
  intro s r1 r2 r3 b d i2 a
  refine ⟨fun hp => ⟨?ssk, ?diagnose, fun hin => ?ssm, fun hr => ⟨?lpsw, ?sio, ?tmrs2, ?tmrs3⟩⟩, fun hp => ?refused⟩
  case ssk => exact needSupervisor_problem hp _
  case diagnose => exact needSupervisor_problem hp _
  case ssm => exact (afterLoad_readable ⟨hin, Nat.mod_one _⟩ _ _).trans (needSupervisor_problem hp _)
  case lpsw =>
    have hodd : a.getLsbD 0 = false := getLsbD_zero_of_mod (align := 1) hr.2
    show execLpsw b d s = _
    rw [execLpsw]
    simp only [show s.available (s.ea b d) = true from hr.available, show (s.ea b d).getLsbD 0 = false from hodd]
    exact needSupervisor_problem hp _
  case sio => exact (afterControlCheck_readable hr _).trans (needSupervisor_problem hp _)
  case tmrs2 | tmrs3 => exact exec_tmrs_privileged (by decide) hr (by decide) hp
  case refused => exact needSupervisor_supervisor hp _

end Sys2Proof.Machine
end

section
/-! PROOFS.
START I/O (spec/44_status_switching.md section 4): the form of the command word, and what each form does.
-/
namespace Sys2Proof.Machine

/-! ## The form of a command word -/

theorem commandForm_output {p : Params} {cmd : Half} (h : slice cmd 0 8 = 0xFF#8) :
    commandForm p cmd = some .output :=
  if_pos h

theorem commandForm_input {p : Params} {cmd : Half} (h : slice cmd 0 8 = 0x00#8) : commandForm p cmd = some .input := by
  rw [commandForm, h]
  rfl

/-- A command word that is neither a direct output nor a direct input (R304; log 22). -/
theorem commandForm_other {p : Params} {cmd : Half} (hout : slice cmd 0 8 ≠ 0xFF#8) (hin : slice cmd 0 8 ≠ 0x00#8) :
    commandForm p cmd =
      if slice cmd 0 8 ∈ p.sioReset then some .resetInterface
      else if slice cmd 0 8 ∈ p.sioTest then some .testInterface
      else none := by
  simp only [commandForm, if_neg hout, if_neg hin]

/-! ## Direct input -/

/-- `t` is `s` with the word `v` of a direct input in the low half of register `r` and condition code 0; what devices have
ready and the values drawn may have changed (R305). -/
def Delivers (s : State) (cmd data : Half) (r : Reg) (v : Half) (t : State) : Prop :=
  t.reg r = (s.reg r).extractLsb' 16 16 ++ v ∧ SameGrBut [r] s t ∧ SameStorage s t ∧
  t = { s with gr := t.gr, psw := { s.psw with cc := 0 }, outbox := .input cmd data :: s.outbox,
               deviceWords := t.deviceWords, drawn := t.drawn }

/-- The command has been sent, and devices or free values have given the word. -/
def Requested (s : State) (cmd data : Half) (u : State) : Prop :=
  u = { s with outbox := .input cmd data :: s.outbox, deviceWords := u.deviceWords, drawn := u.drawn }

theorem delivers_setLo {s u : State} {cmd data : Half} (h : Requested s cmd data u) (r : Reg) (v : Half) :
    Delivers s cmd data r v ((u.setLo r v).setCc 0) := by
  rw [h]
  refine ⟨?_, fun q hq => ?_, fun x => ?_, ?_⟩
  · rw [State.setCc_reg, State.reg_setLo, if_pos rfl]
    rfl
  · rw [State.setCc_reg, State.reg_setLo, if_neg (by simpa using hq)]
    rfl
  · rfl
  · rfl

theorem startIo_output {s : State} {cmd : Half} (r1 r3 : Reg) (h : slice cmd 0 8 = 0xFF#8) :
    s.startIo r1 r3 cmd = .next (if s.chanBusy then s.setCc 1 else (s.directOutput cmd r1).setCc 0) := by
  simp only [State.startIo, commandForm_output h]

theorem startIo_input {s : State} {cmd : Half} (r1 r3 : Reg) (h : slice cmd 0 8 = 0x00#8) :
    s.startIo r1 r3 cmd = .next (
      if s.chanBusy then s.setCc 1
      else
        let x := { s with outbox := .input cmd (s.lo r1) :: s.outbox }.directInput cmd
        (x.2.setLo r3 x.1).setCc 0) := by
  simp only [State.startIo, commandForm_input h]

/-- A direct input on a free channel delivers the word of `directInput`. -/
theorem startIo_delivers {s u : State} {cmd v : Half} {r1 : Reg} (r3 : Reg) (h : slice cmd 0 8 = 0x00#8)
    (hfree : s.chanBusy = false) (hx : { s with outbox := .input cmd (s.lo r1) :: s.outbox }.directInput cmd = (v, u))
    (hu : Requested s cmd (s.lo r1) u) :
    ∃ t, s.startIo r1 r3 cmd = .next t ∧ Delivers s cmd (s.lo r1) r3 v t ∧ t.deviceWords = u.deviceWords ∧
      t.drawn = u.drawn := by
  refine ⟨(u.setLo r3 v).setCc 0, ?_, delivers_setLo hu r3 v, rfl, rfl⟩
  rw [startIo_input r1 r3 h, if_neg (by simp [hfree])]
  simp only [hx]

theorem cmd_ne_panel {cmd : Half} (h : ¬(4 ≤ cmd.toNat ∧ cmd.toNat ≤ 7)) (k : Nat) (hk : 4 ≤ k ∧ k ≤ 7) :
    cmd ≠ BitVec.ofNat 16 k := by
  rintro rfl
  simp only [BitVec.toNat_ofNat] at h
  omega

/-- A command that names no panel register takes the next word of the devices (R516). -/
theorem State.directInput_word {s : State} {cmd w : Half} {ws : List Half} (h : ¬(4 ≤ cmd.toNat ∧ cmd.toNat ≤ 7))
    (hw : s.deviceWords = w :: ws) : s.directInput cmd = (w, { s with deviceWords := ws }) := by
  unfold State.directInput
  rw [if_neg (cmd_ne_panel h 4 (by decide)), if_neg (cmd_ne_panel h 5 (by decide)),
    if_neg (cmd_ne_panel h 6 (by decide)), if_neg (cmd_ne_panel h 7 (by decide)), hw]

/-- Where no device has a word, the command gets any value (log 12). -/
theorem State.directInput_free {s : State} {cmd : Half} (h : ¬(4 ≤ cmd.toNat ∧ cmd.toNat ≤ 7))
    (hw : s.deviceWords = []) : s.directInput cmd = (s.free.setWidth 16, s.draw) := by
  unfold State.directInput
  rw [if_neg (cmd_ne_panel h 4 (by decide)), if_neg (cmd_ne_panel h 5 (by decide)),
    if_neg (cmd_ne_panel h 6 (by decide)), if_neg (cmd_ne_panel h 7 (by decide)), hw]

/-- The checks of SIO pass, and the command is read (R305). -/
theorem execSio_quiet {s : State} {r1 r3 b2 : Reg} {d2 : Disp} (hq : s.dma = []) (hp : s.psw.p = false)
    (hr : s.Readable (s.ea b2 d2) 1 2) : execSio r1 r3 b2 d2 s = s.startIo r1 r3 (s.half (s.ea b2 d2)) := by
  refine (afterControlCheck_readable hr _).trans ?_
  rw [needSupervisor_supervisor hp, State.readHalf_quiet hq]

/-- Settles O47: by the form of the command word, and for a direct input by where its word comes from. -/
theorem startsInputOutput : Obligations.StartsInputOutput := by
  intro s r1 r3 b2 d2 w ws a cmd left data commanded delivers panel hq hp hr
  have hexec : exec (.sio r1 r3 b2 d2) s = s.startIo r1 r3 cmd := execSio_quiet hq hp hr
  have hpanel (k : Nat) (v : Half) (hleft : slice (BitVec.ofNat 16 k) 0 8 = 0x00#8)
      (hx : ∀ t : State, t.tse = s.tse → t.directInput (BitVec.ofNat 16 k) = (v, t)) : panel k v := by
    intro hk hfree
    rw [← hk] at hleft hx
    obtain ⟨t, ht, hd, hwords, hdrawn⟩ := startIo_delivers (r1 := r1) r3 hleft hfree (hx _ rfl) rfl
    exact ⟨t, hexec.trans ht, hd, hwords, hdrawn⟩
  refine ⟨fun hleft hbusy => ?busy, fun hleft hfree => ?output, ?p4, ?p5, ?p6, ?p7, fun hleft hfree hne => ⟨?word, ?free⟩,
    fun hout hin hres => ?reset, fun hout hin hres htest => ?test, fun hout hin hres htest => ?undefined⟩
  case busy =>
    refine ⟨s.setCc 1, hexec.trans ?_, ccResult_setCc s 1⟩
    obtain hleft | hleft := hleft
    · rw [startIo_output r1 r3 hleft, if_pos hbusy]
    · rw [startIo_input r1 r3 hleft, if_pos hbusy]
  case output =>
    refine ⟨(s.directOutput cmd r1).setCc 0, hexec.trans ?_, rfl⟩
    rw [startIo_output r1 r3 hleft, hfree]
    rfl
  case p4 => exact hpanel 4 _ rfl fun t ht => by rw [← ht]; rfl
  case p5 => exact hpanel 5 _ rfl fun t ht => by rw [← ht, zero_append (m := 8)]; rfl
  case p6 => exact hpanel 6 _ rfl fun t ht => by rw [← ht]; rfl
  case p7 => exact hpanel 7 _ rfl fun t ht => by rw [← ht]; rfl
  case word =>
    intro hwords
    obtain ⟨t, ht, hd, hrest, hdrawn⟩ := startIo_delivers (s := s) (r1 := r1) (v := w)
      (u := { s with outbox := .input cmd data :: s.outbox, deviceWords := ws }) r3 hleft hfree
      (State.directInput_word hne hwords) rfl
    exact ⟨t, hexec.trans ht, hd, hrest, hdrawn⟩
  case free =>
    intro hwords
    obtain ⟨t, ht, hd, hrest, hdrawn⟩ := startIo_delivers (s := s) (r1 := r1)
      (u := { s with outbox := .input cmd data :: s.outbox }.draw) r3 hleft hfree
      (State.directInput_free (s := { s with outbox := .input cmd (s.lo r1) :: s.outbox }) hne hwords)
      (by rfl)
    exact ⟨t, hexec.trans ht, _, hd, hrest.trans hwords, hdrawn⟩
  case reset =>
    refine ⟨_, hexec.trans ?_, rfl⟩
    simp only [State.startIo, commandForm_other hout hin, if_pos (show slice cmd 0 8 ∈ s.params.sioReset from hres)]
    rfl
  case test =>
    refine ⟨_, hexec.trans ?_, rfl⟩
    simp only [State.startIo, commandForm_other hout hin, if_neg (show slice cmd 0 8 ∉ s.params.sioReset from hres),
      if_pos (show slice cmd 0 8 ∈ s.params.sioTest from htest)]
    rfl
  case undefined =>
    rw [hexec]
    simp only [State.startIo, commandForm_other hout hin, if_neg (show slice cmd 0 8 ∉ s.params.sioReset from hres),
      if_neg (show slice cmd 0 8 ∉ s.params.sioTest from htest)]

end Sys2Proof.Machine
end

section
/-! PROOFS.
EXECUTE (spec/43_branching.md section 6): a decoded instruction is another EXECUTE exactly where its first byte says so; and
the fetch of the subject, outcome by outcome.
-/
namespace Sys2Proof

/-! ## The operation code of EXECUTE -/

/-- The instruction is EXECUTE. -/
def Instr.isExecute : Instr → Bool
  | .ex .. => true
  | _ => false

/-- The instructions that a layout makes are all EXECUTE, or none is. -/
def Build.MakesExecute (e : Bool) : Build → Prop
  | .r mk => ∀ a, (mk a).isExecute = e
  | .r2 mk => ∀ a, (mk a).isExecute = e
  | .i8 mk => ∀ a, (mk a).isExecute = e
  | .rr mk => ∀ a b, (mk a b).isExecute = e
  | .rx mk => ∀ a b c d, (mk a b c d).isExecute = e
  | .rx0 mk => ∀ a b c, (mk a b c).isExecute = e
  | .rsh mk => ∀ a b c, (mk a b c).isExecute = e
  | .si mk => ∀ a b c, (mk a b c).isExecute = e
  | .si0 mk => ∀ a b, (mk a b).isExecute = e
  | .ri mk => ∀ a b, (mk a b).isExecute = e
  | .ss mk => ∀ a b c d f, (mk a b c d f).isExecute = e
  | .ss2 mk => ∀ a b c d f g, (mk a b c d f g).isExecute = e

theorem Build.MakesExecute.fill {e : Bool} {b : Build} {bs : List Byte} {i : Instr} (h : b.MakesExecute e)
    (hf : b.fill bs = some i) : i.isExecute = e := by
  cases b
  case r | r2 | i8 | rr =>
    rcases bs with _ | ⟨_, _ | ⟨_, _ | ⟨_, bs⟩⟩⟩
    case cons.cons.nil => cases hf; exact h ..
    all_goals cases hf
  case rx | rx0 | rsh | si | si0 | ri =>
    rcases bs with _ | ⟨_, _ | ⟨_, _ | ⟨_, _ | ⟨_, _ | ⟨_, bs⟩⟩⟩⟩⟩
    case cons.cons.cons.cons.nil => cases hf; exact h ..
    all_goals cases hf
  case ss | ss2 =>
    rcases bs with _ | ⟨_, _ | ⟨_, _ | ⟨_, _ | ⟨_, _ | ⟨_, _ | ⟨_, _ | ⟨_, bs⟩⟩⟩⟩⟩⟩⟩
    case cons.cons.cons.cons.cons.cons.nil => cases hf; exact h ..
    all_goals cases hf

/-- In a table of operation codes EXECUTE has the code X'44' and no other has it (R120). -/
def RowsSpareExecute (l : List OpRow) : Prop := ∀ r ∈ l, r.build.MakesExecute (r.op == 0x44#8)

theorem rowsSpareExecute_opRows : RowsSpareExecute opRows := by
  simp only [RowsSpareExecute, opRows, opRows0, opRows1, opRows2, opRows3, opRows4, opRows5, opRows6, opRows7, opRows8,
    opRows9, opRowsA, opRowsB, opRowsC, opRowsD, opRowsF, List.forall_mem_append, List.forall_mem_cons, List.not_mem_nil,
    false_implies, implies_true, and_true, Build.MakesExecute]
  and_intros
  all_goals
    intros
    rfl

theorem findRow_mem {op : Byte} {l : List OpRow} {r : OpRow} (h : findRow op l = some r) : r ∈ l ∧ r.op = op := by
  induction l with
  | nil => cases h
  | cons c l ih =>
    rw [findRow] at h
    split at h
    case isTrue hc =>
      cases h
      exact ⟨List.mem_cons_self, hc⟩
    case isFalse =>
      obtain ⟨hmem, hop⟩ := ih h
      exact ⟨List.mem_cons_of_mem _ hmem, hop⟩

theorem opSelect_mem {o : Options} {op : Byte} {r : OpRow} (h : opSelect o op = .ok r) : r ∈ opRows ∧ r.op = op := by
  unfold opSelect at h
  split at h
  · cases h
  · rename_i row hrow
    split at h
    · cases h
      exact findRow_mem hrow
    · cases h

/-- What is decoded is EXECUTE exactly where the first byte is its operation code. -/
theorem decode_isExecute {o : Options} {op : Byte} {bs rest : List Byte} {i : Instr}
    (h : decode o (op :: bs) = .ok (i, rest)) : i.isExecute = (op == 0x44#8) := by
  unfold decode at h
  split at h
  · rename_i hnil; cases hnil
  rename_i op' bs' hbytes
  cases hbytes
  split at h
  · cases h
  rename_i row hrow
  obtain ⟨hmem, hop⟩ := opSelect_mem hrow
  dsimp only at h
  split at h
  · rename_i j hfill
    cases h
    rw [← hop]
    exact (rowsSpareExecute_opRows row hmem).fill hfill
  · cases h

theorem Instr.isExecute_iff (i : Instr) : i.isExecute = true ↔ ∃ r1 x2 b2 d2, i = .ex r1 x2 b2 d2 := by
  constructor
  · cases i with
    | ex r1 x2 b2 d2 => exact fun _ => ⟨r1, x2, b2, d2, rfl⟩
    | _ => nofun
  · rintro ⟨r1, x2, b2, d2, rfl⟩
    rfl

end Sys2Proof

namespace Sys2Proof.Machine

/-! ## The fetch of the subject -/

section
variable {s : State} {r1 : Reg} {a : Addr}

theorem runSubject_unavailable (h : ¬s.Installed a 1) : s.runSubject r1 a = raise .addressing s := by
  have hav : s.availableN a 1 = false := by rwa [← Bool.not_eq_true, State.availableN_iff]
  have hav : s.available a = false := by simpa [State.availableN] using hav
  simp [State.runSubject, hav]

theorem runSubject_odd (hin : s.Installed a 1) (hodd : a.getLsbD 0 = true) :
    s.runSubject r1 a = raise .specification s := by
  simp only [State.runSubject, hin.available (by decide), hodd]
  rfl

variable {n : Nat} (hn : s.lengthOf (s.byte a) = n) (hq : s.dma = []) (heven : a.getLsbD 0 = false)
include hn hq heven

theorem runSubject_short (hin : s.Installed a 1) (h : ¬s.Installed a (2 * n)) :
    s.runSubject r1 a = raise .addressing s := by
  rw [← State.availableN_iff, Bool.not_eq_true] at h
  simp only [State.runSubject, hin.available (by decide), heven, State.access_quiet hq, hn, h]
  rfl

variable (h1 : 1 ≤ n) (hin : s.Installed a (2 * n))
include h1 hin

theorem runSubject_operation {e : DecodeError}
    (hd : decode s.params.opts (s.modifySubject r1 (s.bytes a (2 * n))) = .error e) :
    s.runSubject r1 a = raise .operation s := by
  have hav := (s.availableN_iff _ _).2 hin
  simp only [State.runSubject, hin.available (show 0 < 2 * n by omega), heven, State.access_quiet hq, hn, hav,
    State.readHalves_quiet hq, hd]
  rfl

theorem runSubject_decoded {i : Instr} {rest : List Byte}
    (hd : decode s.params.opts (s.modifySubject r1 (s.bytes a (2 * n))) = .ok (i, rest)) :
    s.runSubject r1 a = if s.inLastFullword a n then .refused .lastFullword
      else leaveExecute (execSubject i { s with inExecute := true }) := by
  have hav := (s.availableN_iff _ _).2 hin
  simp only [State.runSubject, hin.available (show 0 < 2 * n by omega), heven, State.access_quiet hq, hn, hav,
    State.readHalves_quiet hq, hd]
  rfl

end

/-- The bytes of the subject with the second one modified (R270). -/
theorem State.modifySubject_bytes (s : State) (r1 : Reg) (a : Addr) {n : Nat} (h : 1 ≤ n) :
    s.modifySubject r1 (s.bytes a (2 * n)) =
      s.byte a :: (s.byte (a + 1#20) ||| (if r1 = 0#4 then 0#8 else (s.reg r1).extractLsb' 0 8)) ::
        s.bytes (a + 2#20) (2 * n - 2) := by
  obtain ⟨m, hm⟩ : ∃ m, 2 * n = m + 1 + 1 := ⟨2 * n - 2, by omega⟩
  rw [hm, State.bytes, State.bytes, State.modifySubject, BitVec.add_assoc]
  refine congrArg (s.byte a :: ·) (congrArg₂ List.cons ?_ rfl)
  split
  · rw [BitVec.or_zero]
  · rfl

/-- Bytes are read from storage alone. -/
theorem State.bytes_of_mem {s t : State} (h : t.mem = s.mem) (a : Addr) (n : Nat) : t.bytes a n = s.bytes a n := by
  induction n generalizing a with
  | zero => rfl
  | succ n ih => rw [State.bytes, State.bytes, ih, State.byte, State.byte, h]

theorem instrLength_lr (short : Bool) : instrLength short 0x18#8 = 1 := by
  cases short <;> rfl

theorem instrLength_ex (short : Bool) : instrLength short 0x44#8 = 2 := by
  cases short <;> rfl

theorem decode_lr (o : Options) (m : Byte) : decode o [0x18#8, m] = .ok (.lr (hi4 m) (lo4 m), []) :=
  decode_of_fill (bs := [m]) (rest := []) (row := ⟨0x18#8, .basic, .rr .lr⟩) rfl (by rw [instrLength_lr]; rfl) rfl

theorem decode_ex (o : Options) (m x y : Byte) :
    decode o [0x44#8, m, x, y] = .ok (.ex (hi4 m) (lo4 m) (hi4 x) (dispOf x y), []) :=
  decode_of_fill (bs := [m, x, y]) (rest := []) (row := ⟨0x44#8, .basic, .rx .ex⟩) rfl (by rw [instrLength_ex]; rfl) rfl

/-- EXECUTE runs its subject with the length code 2 (R270). -/
theorem execEx_eq {s : State} (hx : s.inExecute = false) (r1 x2 b2 : Reg) (d2 : Disp) :
    execEx r1 x2 b2 d2 s = State.runSubject { s with ilc := 2#2 } r1 (s.eax x2 b2 d2) := by
  have ht : ({ s with inExecute := false, ilc := 2#2 } : State) = { s with ilc := 2#2 } := by rw [hx]
  rw [execEx, ht]
  rfl

/-- An EXECUTE in the place of the subject is the execute exception (R483). -/
theorem leaveExecute_execSubject_ex {s : State} (hx : s.inExecute = false) {i : Instr} (hi : i.isExecute = true) :
    leaveExecute (execSubject i { s with inExecute := true }) = raise .execute s := by
  obtain ⟨r1, x2, b2, d2, rfl⟩ := i.isExecute_iff.1 hi
  exact leaveExecute_raise hx .execute

theorem execSubject_of_not_isExecute {i : Instr} (hi : i.isExecute = false) (s : State) : execSubject i s = exec i s :=
  execSubject_eq_exec (fun r1 x2 b2 d2 e => by rw [i.isExecute_iff.2 ⟨r1, x2, b2, d2, e⟩] at hi; cases hi) s

/-- Settles O42: the outcomes of the subject's fetch, and what an instruction decoded from other bytes than X'44' does. -/
theorem executesSubject : Obligations.ExecutesSubject := by
  intro s r1 x2 b2 d2 hx hq a n m bytes s' exits safe fetched
  have hn : 1 ≤ n := (instrLength_range _ _).1
  have hexec : exec (.ex r1 x2 b2 d2) s = s'.runSubject r1 a := execEx_eq hx r1 x2 b2 d2
  have hbytes : s'.modifySubject r1 (s'.bytes a (2 * n)) = bytes := by
    rw [s'.modifySubject_bytes r1 a hn, State.bytes_of_mem (s := s) (t := s') rfl]
    rfl
  have hexits (r : Result) : exits r = leaveExecute r := by cases r <;> rfl
  have hdecoded : ∀ i rest, fetched → decode s.params.opts bytes = .ok (i, rest) →
      exec (.ex r1 x2 b2 d2) s = if s'.inLastFullword a n then .refused .lastFullword
        else leaveExecute (execSubject i { s' with inExecute := true }) := by
    intro i rest hf hd
    rw [hexec]
    exact runSubject_decoded (s := s') (n := n) rfl hq hf.1 hn hf.2 ((congrArg (decode _) hbytes).trans hd)
  have hsafe (h : safe) : s'.inLastFullword a n = false := State.inLastFullword_false h
  have hmeaning : ∀ i rest, fetched → safe → s.byte a ≠ 0x44#8 → decode s.params.opts bytes = .ok (i, rest) →
      exec (.ex r1 x2 b2 d2) s = exits (exec i { s' with inExecute := true }) := by
    intro i rest hf hs hop hd
    have hi : i.isExecute = false := (decode_isExecute hd).trans (beq_eq_false_iff_ne.2 hop)
    rw [hdecoded i rest hf hd, hsafe hs, hexits, execSubject_of_not_isExecute hi]
    rfl
  refine ⟨hmeaning, fun hf hs hop => ?lr, fun hf hs hop => ?execute, fun i rest hf hlt hlast hd => ?last,
    fun hf hrows => ?operation, fun h1 heven h => ?short, fun h1 hodd => ?odd, fun h => ?unavailable⟩
  case lr =>
    have hlen : n = 1 := (congrArg _ hop).trans (instrLength_lr s.params.opts.short)
    have hd : decode s.params.opts bytes = .ok (.lr (hi4 m) (lo4 m), []) := by
      show decode s.params.opts (s.byte a :: m :: s.bytes (a + 2#20) (2 * n - 2)) = _
      rw [hlen, hop]
      exact decode_lr _ m
    refine ⟨_, hmeaning _ _ hf hs (by rw [hop]; decide) hd, State.reg_setReg_self _ _ _, fun q hq => ?_, ?_⟩
    · exact State.reg_setReg_ne _ _ (List.ne_of_not_mem_cons hq)
    · rw [← hx]
      rfl
  case execute =>
    have hlen : n = 2 := (congrArg _ hop).trans (instrLength_ex s.params.opts.short)
    have hd : ∃ i, decode s.params.opts bytes = .ok (i, []) := by
      show ∃ i, decode s.params.opts (s.byte a :: m :: s.bytes (a + 2#20) (2 * n - 2)) = .ok (i, [])
      rw [hlen, hop]
      exact ⟨_, decode_ex _ m _ _⟩
    obtain ⟨i, hd⟩ := hd
    rw [hdecoded i [] hf hd, hsafe hs]
    exact leaveExecute_execSubject_ex (s := s') hx ((decode_isExecute hd).trans (by rw [hop]; rfl))
  case last =>
    rw [hdecoded i rest hf hd]
    exact if_pos (by simp only [State.inLastFullword, Bool.and_eq_true, decide_eq_true_eq]; exact ⟨hlt, hlast⟩)
  case operation =>
    obtain ⟨e, he⟩ := decode_unassigned (bs := m :: s.bytes (a + 2#20) (2 * n - 2)) hrows
    rw [hexec]
    exact runSubject_operation (s := s') (n := n) rfl hq hf.1 hn hf.2 ((congrArg (decode _) hbytes).trans he)
  case short => exact hexec.trans (runSubject_short rfl hq heven h1 h)
  case odd => exact hexec.trans (runSubject_odd h1 hodd)
  case unavailable => exact hexec.trans (runSubject_unavailable h)

end Sys2Proof.Machine
end

section
/-! PROOFS.
The instructions with operands of variable length, byte by byte from the left (spec/42_logical.md, R211): where no DMA acts
and every byte is accessible, the bytes are fetched and stored one after the other, and what is left to prove is that a store
does not change a byte that is fetched later.
-/
namespace Sys2Proof.Machine

/-! ## Single bytes -/

theorem State.fetchByte_quiet {s : State} {a : Addr} (hq : s.dma = []) (h : s.available a = true) :
    s.fetchByte a = .ok (s.byte a, s) := by
  rw [State.fetchByte, if_pos h, State.readByte_quiet hq]

theorem State.storeByte_quiet {s : State} {a : Addr} (hq : s.dma = []) (h : s.available a = true)
    (hp : s.cpuProtected a = false) (v : Byte) : s.storeByte a v = .ok (s.setByte a v) := by
  simp [State.storeByte, h, hp, State.writeByte_quiet hq]

theorem addr_succ_add (a : Addr) (k : Nat) : a + 1#20 + BitVec.ofNat 20 k = a + BitVec.ofNat 20 (k + 1) := by
  rw [BitVec.add_assoc, BitVec.ofNat_add, BitVec.add_comm 1#20]

theorem State.Installed.tail {s : State} {a : Addr} {n : Nat} (h : s.Installed a (n + 1)) : s.Installed (a + 1#20) n := by
  intro k hk
  rw [addr_succ_add]
  exact h (k + 1) (by omega)

theorem State.Unprotected.tail {s : State} {a : Addr} {n : Nat} (h : s.Unprotected a (n + 1)) :
    s.Unprotected (a + 1#20) n := by
  intro k hk
  rw [addr_succ_add]
  exact h (k + 1) (by omega)

theorem State.Unprotected.head {s : State} {a : Addr} {n : Nat} (h : s.Unprotected a (n + 1)) :
    s.cpuProtected a = false := by
  have := h 0 (by omega)
  rwa [BitVec.add_zero] at this

/-- A field that a byte is stored outside of. -/
theorem State.bytes_setByte_out (s : State) {a x : Addr} {n : Nat} (v : Byte)
    (h : ∀ k, k < n → a + BitVec.ofNat 20 k ≠ x) : (s.setByte x v).bytes a n = s.bytes a n := by
  induction n generalizing a with
  | zero => rfl
  | succ n ih =>
    have h0 := h 0 (by omega)
    rw [BitVec.add_zero] at h0
    rw [State.bytes, State.bytes, State.byte_setByte, if_neg h0, ih fun k hk => addr_succ_add a k ▸ h (k + 1) (by omega)]

/-- The bytes of a field, by number. -/
theorem State.bytes_eq_map (s : State) (a : Addr) (n : Nat) :
    s.bytes a n = (List.range n).map fun k => s.byte (a + BitVec.ofNat 20 k) :=
  List.ext_getElem (by simp) fun k h1 _ => by rw [State.bytes_getElem]; simp

/-- The rest of a field after its first byte. -/
theorem addr_tail_ne {a : Addr} {n : Nat} (hn : n < 2 ^ 20) : ∀ k, k < n → a + 1#20 + BitVec.ofNat 20 k ≠ a := by
  intro k hk
  rw [addr_succ_add]
  have := addr_ofNat_ne (a := a) (j := k + 1) (k := 0) (by omega) (by omega) (by omega)
  rwa [BitVec.add_zero] at this

/-! ## Combining two fields -/

section
variable {s : State} {a1 a2 : Addr}

/-- One byte of the combination. -/
theorem combineBytes_succ {n : Nat} (f : Byte → Byte → Byte) (hq : s.dma = []) (h1 : s.Installed a1 (n + 1))
    (hp : s.Unprotected a1 (n + 1)) (h2 : s.Installed a2 (n + 1)) (zero : Bool) :
    combineBytes f a1 a2 (n + 1) zero s =
      combineBytes f (a1 + 1#20) (a2 + 1#20) n (zero && f (s.byte a1) (s.byte a2) == 0#8)
        (s.setByte a1 (f (s.byte a1) (s.byte a2))) := by
  rw [combineBytes, State.fetchByte_quiet hq (h2.available (by omega))]
  show (do let y ← s.fetchByte a1; _) = _
  rw [State.fetchByte_quiet hq (h1.available (by omega))]
  show (do let t ← s.storeByte a1 _; _) = _
  rw [State.storeByte_quiet hq (h1.available (by omega)) hp.head]
  rfl

/-- No byte of the second operand is fetched after its place has been stored into. -/
def FetchedFirst (a1 a2 : Addr) (n : Nat) : Prop :=
  ∀ j k, j < k → k < n → a2 + BitVec.ofNat 20 k ≠ a1 + BitVec.ofNat 20 j

theorem FetchedFirst.tail {n : Nat} (h : FetchedFirst a1 a2 (n + 1)) : FetchedFirst (a1 + 1#20) (a2 + 1#20) n := by
  intro j k hjk hk
  rw [addr_succ_add, addr_succ_add]
  exact h (j + 1) (k + 1) (by omega) (by omega)

theorem FetchedFirst.head {n : Nat} (h : FetchedFirst a1 a2 (n + 1)) (k : Nat) (hk : k < n) :
    a2 + 1#20 + BitVec.ofNat 20 k ≠ a1 := by
  have := h 0 (k + 1) (by omega) (by omega)
  rwa [BitVec.add_zero, ← addr_succ_add] at this

/-- Combining two fields byte by byte (R211). -/
theorem combineBytes_quiet {n : Nat} (hn : n < 2 ^ 20) (f : Byte → Byte → Byte) (hq : s.dma = [])
    (h1 : s.Installed a1 n) (hp : s.Unprotected a1 n) (h2 : s.Installed a2 n) (ho : FetchedFirst a1 a2 n) (zero : Bool) :
    combineBytes f a1 a2 n zero s =
      .ok (zero && (List.zipWith f (s.bytes a1 n) (s.bytes a2 n)).all (· == 0#8),
        s.setBytes a1 (List.zipWith f (s.bytes a1 n) (s.bytes a2 n))) := by
  induction n generalizing s a1 a2 zero with
  | zero => simp [combineBytes, State.bytes, State.setBytes]
  | succ n ih =>
    have hrest := ih (s := s.setByte a1 (f (s.byte a1) (s.byte a2))) (by omega) (by simpa using hq) h1.tail hp.tail
      h2.tail ho.tail (zero && f (s.byte a1) (s.byte a2) == 0#8)
    rw [combineBytes_succ f hq h1 hp h2, hrest,
      State.bytes_setByte_out s _ (addr_tail_ne (by omega)), State.bytes_setByte_out s _ ho.head, State.bytes,
      State.bytes, List.zipWith_cons_cons, State.setBytes, List.all_cons, Bool.and_assoc]

/-- A field that starts one byte to the right of the one moved to it (R217). -/
theorem combineBytes_propagates {n : Nat} (hq : s.dma = []) (h1 : s.Installed a1 n) (hp : s.Unprotected a1 n)
    (h2 : s.Installed a2 n) (ha : a1 = a2 + 1#20) (zero : Bool) :
    ∃ z, combineBytes (fun _ x => x) a1 a2 n zero s = .ok (z, s.setBytes a1 (List.replicate n (s.byte a2))) := by
  induction n generalizing s a1 a2 zero with
  | zero => exact ⟨zero, rfl⟩
  | succ n ih =>
    rw [combineBytes_succ _ hq h1 hp h2]
    obtain ⟨z, hz⟩ := ih (s := s.setByte a1 (s.byte a2)) (by simpa using hq) h1.tail hp.tail h2.tail (by rw [ha])
      (zero && s.byte a2 == 0#8)
    refine ⟨z, hz.trans ?_⟩
    rw [← ha, State.byte_setByte, if_pos rfl, List.replicate_succ, State.setBytes]

end

/-! ## Moves and connectives of fields -/

theorem length_zipWith_bytes (f : Byte → Byte → Byte) (s : State) (a1 a2 : Addr) {n : Nat} (hn : n < 2 ^ 20) :
    (List.zipWith f (s.bytes a1 n) (s.bytes a2 n)).length ≤ 2 ^ 20 := by
  simp
  omega

section
variable {i : Instr} {s : State} {a1 a2 : Addr} {n : Nat} {f : Byte → Byte → Byte}
  (hn : n < 2 ^ 20) (hq : s.dma = []) (hw : s.Writable a1 n 1) (h2 : s.Installed a2 n) (ho : FetchedFirst a1 a2 n)
include hn hq hw h2 ho

/-- An instruction that ends like a move. -/
theorem completes_movedField (he : exec i s = movedField a1 n (combineBytes f a1 a2 n true s)) :
    Completes i s (StoreResult s a1 (List.zipWith f (s.bytes a1 n) (s.bytes a2 n)) s.psw.cc) := by
  rw [combineBytes_quiet hn f hq hw.1.1 hw.2 h2 ho] at he
  exact completes_setBytes he (length_zipWith_bytes f s a1 a2 hn)

/-- An instruction that ends like a connective. -/
theorem completes_storedFieldCc (he : exec i s = storedFieldCc a1 n (combineBytes f a1 a2 n true s)) :
    Completes i s (StoreResult s a1 (List.zipWith f (s.bytes a1 n) (s.bytes a2 n))
      (if ∀ b ∈ List.zipWith f (s.bytes a1 n) (s.bytes a2 n), b = 0#8 then 0 else 1)) := by
  rw [combineBytes_quiet hn f hq hw.1.1 hw.2 h2 ho] at he
  exact completes_setBytes_setCc he (length_zipWith_bytes f s a1 a2 hn)
    (if_congr (by rw [Bool.true_and, List.all_eq_true]; simp only [beq_iff_eq]) rfl rfl)

end

theorem zipWith_second {α : Type} {xs ys : List α} (h : xs.length = ys.length) : List.zipWith (fun _ y => y) xs ys = ys := by
  induction xs generalizing ys with
  | nil => cases ys with
    | nil => rfl
    | cons => cases h
  | cons x xs ih => cases ys with
    | nil => cases h
    | cons y ys => rw [List.zipWith_cons_cons, ih (by simpa using h)]

/-- Joining the zone of one byte with the digit of another, by masks (R218). -/
theorem mergeNumeric_eq (y x : Byte) : mergeNumeric y x = y &&& 0xF0#8 ||| x &&& 0x0F#8 := by
  apply BitVec.eq_of_getLsbD_eq
  intro j hj
  have hparts : (mergeNumeric y x).getLsbD j = if j < 4 then (slice x 4 4).getLsbD j else (slice y 0 4).getLsbD (j - 4) :=
    BitVec.getLsbD_append
  rw [hparts]
  simp only [slice, BitVec.getLsbD_extractLsb', BitVec.getLsbD_or, BitVec.getLsbD_and]
  interval_cases j <;> simp

/-- Settles O35: each instruction combines the bytes, with its own function. -/
theorem combinesFields : Obligations.CombinesFields := by
  intro s l b1 b2 d1 d2 n a1 a2 hq hw h2
  have hn : n < 2 ^ 20 := by have := l.isLt; omega
  refine ⟨fun ha => ?overlap, fun ho => ?apart⟩
  case overlap =>
    obtain ⟨z, hz⟩ := combineBytes_propagates hq hw.1.1 hw.2 h2 ha true
    refine completes_setBytes ?_ (by simp; omega)
    show movedField a1 n (combineBytes (fun _ x => x) a1 a2 n true s) = _
    rw [hz]
    rfl
  case apart =>
    intro xs ys joined nz
    refine ⟨?mvc, ?mvn, ?mvz, ?nc, ?oc, ?xc⟩
    case mvc =>
      rw [← zipWith_second (show xs.length = ys.length by simp [xs, ys])]
      exact completes_movedField hn hq hw h2 ho rfl
    case mvn =>
      simp only [joined, ← mergeNumeric_eq]
      exact completes_movedField hn hq hw h2 ho rfl
    case mvz =>
      simp only [joined, ← mergeNumeric_eq]
      exact completes_movedField hn hq hw h2 ho rfl
    case nc => exact completes_storedFieldCc hn hq hw h2 ho rfl
    case oc => exact completes_storedFieldCc hn hq hw h2 ho rfl
    case xc => exact completes_storedFieldCc hn hq hw h2 ho rfl

end Sys2Proof.Machine
end

section
/-! PROOFS.
COMPARE LOGICAL of fields, TRANSLATE and TRANSLATE AND TEST (spec/42_logical.md sections 3 and 6).
-/
namespace Sys2Proof.Machine

/-! ## Comparing two fields -/

section
variable {s : State} {a1 a2 : Addr}

theorem compareBytes_succ {n : Nat} (hq : s.dma = []) (h1 : s.Installed a1 (n + 1)) (h2 : s.Installed a2 (n + 1)) :
    compareBytes a1 a2 (n + 1) s =
      if s.byte a1 = s.byte a2 then compareBytes (a1 + 1#20) (a2 + 1#20) n s
      else .ok (ccUnsigned (s.byte a1) (s.byte a2), s) := by
  rw [compareBytes, State.fetchByte_quiet hq (h2.available (by omega))]
  show (do let y ← s.fetchByte a1; _) = _
  rw [State.fetchByte_quiet hq (h1.available (by omega))]
  rfl

theorem compareBytes_equal {n : Nat} (hq : s.dma = []) (h1 : s.Installed a1 n) (h2 : s.Installed a2 n)
    (he : ∀ k, k < n → s.byte (a1 + BitVec.ofNat 20 k) = s.byte (a2 + BitVec.ofNat 20 k)) :
    compareBytes a1 a2 n s = .ok (0, s) := by
  induction n generalizing a1 a2 with
  | zero => rfl
  | succ n ih =>
    have h0 := he 0 (by omega)
    rw [BitVec.add_zero, BitVec.add_zero] at h0
    rw [compareBytes_succ hq h1 h2, if_pos h0]
    refine ih h1.tail h2.tail fun k hk => ?_
    rw [addr_succ_add, addr_succ_add]
    exact he (k + 1) (by omega)

theorem compareBytes_differ {n k : Nat} (hq : s.dma = []) (h1 : s.Installed a1 n) (h2 : s.Installed a2 n) (hk : k < n)
    (he : ∀ j, j < k → s.byte (a1 + BitVec.ofNat 20 j) = s.byte (a2 + BitVec.ofNat 20 j))
    (hne : s.byte (a1 + BitVec.ofNat 20 k) ≠ s.byte (a2 + BitVec.ofNat 20 k)) :
    compareBytes a1 a2 n s =
      .ok (ccUnsigned (s.byte (a1 + BitVec.ofNat 20 k)) (s.byte (a2 + BitVec.ofNat 20 k)), s) := by
  induction n generalizing a1 a2 k with
  | zero => omega
  | succ n ih =>
    rw [compareBytes_succ hq h1 h2]
    cases k with
    | zero =>
      rw [BitVec.add_zero, BitVec.add_zero] at hne ⊢
      rw [if_neg hne]
    | succ k =>
      have h0 := he 0 (by omega)
      rw [BitVec.add_zero, BitVec.add_zero] at h0
      rw [if_pos h0]
      rw [← addr_succ_add a1 k, ← addr_succ_add a2 k] at hne ⊢
      refine ih h1.tail h2.tail (by omega) (fun j hj => ?_) hne
      rw [addr_succ_add, addr_succ_add]
      exact he (j + 1) (by omega)

end

/-- A comparison of installed fields ends with its condition code. -/
theorem execClc_ok {s : State} {l : Byte} {b1 b2 : Reg} {d1 d2 : Disp} {c : Cc}
    (h1 : s.Installed (s.ea b1 d1) (lengthOf l)) (h2 : s.Installed (s.ea b2 d2) (lengthOf l))
    (h : compareBytes (s.ea b1 d1) (s.ea b2 d2) (lengthOf l) s = .ok (c, s)) :
    execClc l b1 d1 b2 d2 s = .next (s.setCc c) := by
  simp only [execClc, h, (s.availableN_iff _ _).2 h1, (s.availableN_iff _ _).2 h2]
  rfl

/-- Settles O36: up to the first difference, byte by byte. -/
theorem comparesFields : Obligations.ComparesFields := by
  intro s l b1 b2 d1 d2 n x y hq h1 h2
  refine ⟨fun he => ?equal, fun k hk he hne => ?differ⟩
  case equal => exact ⟨_, execClc_ok h1 h2 (compareBytes_equal hq h1 h2 he), ccResult_setCc s 0⟩
  case differ => exact completes_ccCompare (execClc_ok h1 h2 (compareBytes_differ hq h1 h2 hk he hne))

/-! ## TRANSLATE -/

section
variable {s : State} {a1 a2 : Addr}

/-- Where the function byte of the argument byte at `a` lies, in a list at `a2` (R247). -/
def State.entryOf (s : State) (a2 a : Addr) : Addr := a2 + (s.byte a).setWidth 20

theorem translateBytes_succ {n : Nat} (hq : s.dma = []) (h1 : s.Installed a1 (n + 1)) (hp : s.Unprotected a1 (n + 1))
    (he : s.available (s.entryOf a2 a1) = true) :
    translateBytes a1 a2 (n + 1) s = translateBytes (a1 + 1#20) a2 n (s.setByte a1 (s.byte (s.entryOf a2 a1))) := by
  rw [translateBytes, State.fetchByte_quiet hq (h1.available (by omega))]
  show (do let y ← s.fetchByte (s.entryOf a2 a1); _) = _
  rw [State.fetchByte_quiet hq he]
  show (do let t ← s.storeByte a1 _; _) = _
  rw [State.storeByte_quiet hq (h1.available (by omega)) hp.head]
  rfl

/-- The argument bytes still to come are not stored into, and select the same entries. -/
theorem entryOf_setByte {n k : Nat} (hn : n < 2 ^ 20) (hk : k < n) (v : Byte) :
    (s.setByte a1 v).entryOf a2 (a1 + 1#20 + BitVec.ofNat 20 k) = s.entryOf a2 (a1 + BitVec.ofNat 20 (k + 1)) := by
  rw [State.entryOf, State.byte_setByte, if_neg (addr_tail_ne hn k hk), addr_succ_add, State.entryOf]

/-- Translating a field byte by byte, no function byte having been stored into (R247). -/
theorem translateBytes_quiet {n : Nat} (hn : n < 2 ^ 20) (hq : s.dma = []) (h1 : s.Installed a1 n)
    (hp : s.Unprotected a1 n) (he : ∀ k, k < n → s.available (s.entryOf a2 (a1 + BitVec.ofNat 20 k)) = true)
    (ho : ∀ j k, j < k → k < n → s.entryOf a2 (a1 + BitVec.ofNat 20 k) ≠ a1 + BitVec.ofNat 20 j) :
    translateBytes a1 a2 n s =
      .ok (s.setBytes a1 ((List.range n).map fun k => s.byte (s.entryOf a2 (a1 + BitVec.ofNat 20 k)))) := by
  induction n generalizing s a1 with
  | zero => rfl
  | succ n ih =>
    have h0 := he 0 (by omega)
    rw [BitVec.add_zero] at h0
    have hentry (k : Nat) (hk : k < n) := entryOf_setByte (s := s) (a1 := a1) (a2 := a2) (n := n) (by omega) hk
      (s.byte (s.entryOf a2 a1))
    rw [translateBytes_succ hq h1 hp h0, ih (s := s.setByte a1 (s.byte (s.entryOf a2 a1))) (by omega) (by simpa using hq)
      h1.tail hp.tail (fun k hk => ?avail) (fun j k hjk hk => ?apart)]
    case avail =>
      rw [hentry k hk, State.setByte_available]
      exact he (k + 1) (by omega)
    case apart =>
      rw [hentry k hk, addr_succ_add]
      exact ho (j + 1) (k + 1) (by omega) (by omega)
    rw [List.range_succ_eq_map, List.map_cons, List.map_map, State.setBytes, BitVec.add_zero]
    congr 2
    refine List.map_congr_left fun k hk => ?_
    have hk : k < n := List.mem_range.1 hk
    have hne := ho 0 (k + 1) (by omega) (by omega)
    rw [BitVec.add_zero] at hne
    rw [hentry k hk, State.byte_setByte, if_neg hne]
    rfl

/-! ## TRANSLATE AND TEST -/

theorem scanBytes_succ {n : Nat} (hq : s.dma = []) (h1 : s.available a1 = true)
    (he : s.available (s.entryOf a2 a1) = true) :
    scanBytes a1 a2 (n + 1) s =
      if s.byte (s.entryOf a2 a1) = 0#8 then scanBytes (a1 + 1#20) a2 n s
      else .ok (some (a1, s.byte (s.entryOf a2 a1), n == 0), s) := by
  rw [scanBytes, State.fetchByte_quiet hq h1]
  show (do let y ← s.fetchByte (s.entryOf a2 a1); _) = _
  rw [State.fetchByte_quiet hq he]
  rfl

theorem scanBytes_zero {n : Nat} (hq : s.dma = []) (h1 : s.Installed a1 n)
    (he : ∀ k, k < n → s.available (s.entryOf a2 (a1 + BitVec.ofNat 20 k)) = true ∧
      s.byte (s.entryOf a2 (a1 + BitVec.ofNat 20 k)) = 0#8) : scanBytes a1 a2 n s = .ok (none, s) := by
  induction n generalizing a1 with
  | zero => rfl
  | succ n ih =>
    obtain ⟨hav, hz⟩ := he 0 (by omega)
    rw [BitVec.add_zero] at hav hz
    rw [scanBytes_succ hq (h1.available (by omega)) hav, if_pos hz]
    refine ih h1.tail fun k hk => ?_
    rw [addr_succ_add]
    exact he (k + 1) (by omega)

theorem scanBytes_found {n k : Nat} (hk : k < n) (hq : s.dma = []) (h1 : s.Installed a1 (k + 1))
    (he : ∀ j, j ≤ k → s.available (s.entryOf a2 (a1 + BitVec.ofNat 20 j)) = true)
    (hz : ∀ j, j < k → s.byte (s.entryOf a2 (a1 + BitVec.ofNat 20 j)) = 0#8)
    (hne : s.byte (s.entryOf a2 (a1 + BitVec.ofNat 20 k)) ≠ 0#8) :
    scanBytes a1 a2 n s = .ok (some (a1 + BitVec.ofNat 20 k, s.byte (s.entryOf a2 (a1 + BitVec.ofNat 20 k)),
      decide (k + 1 = n)), s) := by
  induction n generalizing a1 k with
  | zero => omega
  | succ n ih =>
    have hav := he 0 (by omega)
    rw [BitVec.add_zero] at hav
    rw [scanBytes_succ hq (h1.available (by omega)) hav]
    cases k with
    | zero =>
      have hlast : (n == 0) = decide (0 + 1 = n + 1) := Bool.eq_iff_iff.2 (by simp)
      rw [BitVec.add_zero] at hne ⊢
      rw [if_neg hne, hlast]
    | succ k =>
      have hlast : decide (k + 1 = n) = decide (k + 1 + 1 = n + 1) := Bool.eq_iff_iff.2 (by simp)
      have h0 := hz 0 (by omega)
      rw [BitVec.add_zero] at h0
      rw [if_pos h0]
      rw [← addr_succ_add a1 k] at hne ⊢
      rw [ih (k := k) (by omega) h1.tail (fun j hj => addr_succ_add a1 j ▸ he (j + 1) (by omega))
        (fun j hj => addr_succ_add a1 j ▸ hz (j + 1) (by omega)) hne, hlast]

end

theorem State.putScan_reg (s : State) (a : Addr) (v : Byte) (q : Reg) :
    (s.putScan a v).reg q =
      if q = 2 then (s.reg 2).extractLsb' 8 24 ++ v
      else if q = 1 then (s.reg 1).extractLsb' 24 8 ++ 0#8 ++ a.extractLsb' 0 16
      else s.reg q := by
  unfold State.putScan
  rw [State.reg_setReg]
  split
  · rw [State.reg_setReg_ne s _ (by decide)]
    rfl
  · rw [State.reg_setReg]
    rfl

/-- Settles O37: TR stores the function bytes, TRT tells the first one that is not zero. -/
theorem translatesFields : Obligations.TranslatesFields := by
  intro s l b1 b2 d1 d2 n a1 arg entry hq
  have hn : n < 2 ^ 20 := by have := l.isLt; omega
  refine ⟨fun hw he ho => ?tr, fun h1 he => ?none, fun k hk h1 he hz hne => ?found⟩
  case tr =>
    refine completes_setBytes ?_ (by simp; omega)
    show storedField a1 n (translateBytes a1 (s.ea b2 d2) n s) = _
    rw [translateBytes_quiet hn hq hw.1.1 hw.2 (fun k hk => (he k hk).available (by decide)) ho]
    rfl
  case none =>
    refine ⟨s.setCc 0, ?_, ccResult_setCc s 0⟩
    show execTrt l b1 d1 b2 d2 s = _
    have := scanBytes_zero (a2 := s.ea b2 d2) hq h1 fun k hk => ⟨(he k hk).1.available (by decide), (he k hk).2⟩
    simp only [execTrt, show scanBytes (s.ea b1 d1) (s.ea b2 d2) (lengthOf l) s = _ from this]
  case found =>
    have hscan := scanBytes_found (a2 := s.ea b2 d2) hk hq h1 (fun j hj => (he j hj).available (by decide)) hz hne
    refine ⟨(s.putScan (a1 + BitVec.ofNat 20 k) (s.byte (entry k))).setCc (if k + 1 = n then 2 else 1), ?exec, ?r1, ?r2,
      rfl, fun q hq => ?others, rfl, fun _ => rfl, rfl⟩
    case exec =>
      show execTrt l b1 d1 b2 d2 s = _
      simp only [execTrt, show scanBytes (s.ea b1 d1) (s.ea b2 d2) (lengthOf l) s = _ from hscan, decide_eq_true_eq]
      rfl
    case r1 =>
      rw [State.setCc_reg, State.putScan_reg]
      rfl
    case r2 =>
      rw [State.setCc_reg, State.putScan_reg]
      rfl
    case others =>
      simp only [List.mem_cons, List.not_mem_nil, or_false, not_or] at hq
      rw [State.setCc_reg, State.putScan_reg, if_neg hq.2, if_neg hq.1]

end Sys2Proof.Machine
end

section
/-! PROOFS.
PACK, UNPACK and MOVE WITH OFFSET (spec/41_decimal.md): the bytes of the first operand are stored from right to left. On
fields that do not overlap the second operand stays as it was, so that each stored byte is a function of its number.
-/
namespace Sys2Proof.Machine

/-- The two fields of a decimal instruction: `n1` bytes ending at `p1` that can be stored, `n2` bytes ending at `p2` that can
be fetched, no byte in both, and no DMA access. -/
structure DecimalFields (s : State) (p1 p2 : Addr) (n1 n2 : Nat) : Prop where
  small : n1 ≤ 2 ^ 20
  quiet : s.dma = []
  installed1 : ∀ i, i < n1 → s.available (p1 - BitVec.ofNat 20 i) = true
  unprotected : ∀ i, i < n1 → s.cpuProtected (p1 - BitVec.ofNat 20 i) = false
  installed2 : ∀ j, j < n2 → s.available (p2 - BitVec.ofNat 20 j) = true
  apart : ∀ i j, i < n1 → j < n2 → p1 - BitVec.ofNat 20 i ≠ p2 - BitVec.ofNat 20 j

/-- The byte S(j) of the second operand, which zeros extend on the left (R200). -/
def State.digitByte (s : State) (p2 : Addr) (n2 j : Nat) : Byte :=
  if j < n2 then s.byte (p2 - BitVec.ofNat 20 j) else 0#8

/-- `t` is `s` with the bytes F(0) to F(m - 1) of the first operand stored, F(i) being `f i`. -/
structure DigitsStored (s : State) (p1 : Addr) (m : Nat) (f : Nat → Byte) (t : State) : Prop where
  frame : t = { s with mem := t.mem }
  stored : ∀ i, i < m → t.byte (p1 - BitVec.ofNat 20 i) = f i
  others : ∀ x, (∀ i, i < m → x ≠ p1 - BitVec.ofNat 20 i) → t.byte x = s.byte x

theorem digitsStored_zero (s : State) (p1 : Addr) (f : Nat → Byte) : DigitsStored s p1 0 f s :=
  ⟨rfl, nofun, fun _ _ => rfl⟩

/-- Distinct numbers are distinct places of a field. -/
theorem addr_sub_ne {p : Addr} {i j : Nat} (hi : i < 2 ^ 20) (hj : j < 2 ^ 20) (h : i ≠ j) :
    p - BitVec.ofNat 20 i ≠ p - BitVec.ofNat 20 j := by
  intro e
  apply h
  have e' : BitVec.ofNat 20 i = BitVec.ofNat 20 j := by
    have := congrArg (p - ·) e
    simpa using this
  have := congrArg BitVec.toNat e'
  rwa [BitVec.toNat_ofNat, BitVec.toNat_ofNat, Nat.mod_eq_of_lt hi, Nat.mod_eq_of_lt hj] at this

section
variable {s t : State} {p1 p2 : Addr} {n1 n2 m : Nat} {f : Nat → Byte}
  (hf : DecimalFields s p1 p2 n1 n2) (ht : DigitsStored s p1 m f t)
include hf ht

/-- A byte of the second operand is fetched as it was (R200). -/
theorem fetchDigit_stored (hm : m ≤ n1) (j : Nat) : t.fetchDigit p2 n2 j = .ok (s.digitByte p2 n2 j, t) := by
  unfold State.fetchDigit State.digitByte
  split
  case isTrue hj =>
    have hq : t.dma = [] := by rw [ht.frame]; exact hf.quiet
    have hav : t.available (p2 - BitVec.ofNat 20 j) = true := by rw [ht.frame]; exact hf.installed2 j hj
    rw [State.fetchByte_quiet hq hav, ht.others _ fun i hi => (hf.apart i j (by omega) hj).symm]
  case isFalse => rfl

/-- The next byte of the first operand is stored. -/
theorem storeDigit_stored (hm : m < n1) {v : Byte} (hv : v = f m) :
    ∃ u, t.storeDigit p1 m v = .ok u ∧ DigitsStored s p1 (m + 1) f u := by
  have hq : t.dma = [] := by rw [ht.frame]; exact hf.quiet
  have hav : t.available (p1 - BitVec.ofNat 20 m) = true := by rw [ht.frame]; exact hf.installed1 m hm
  have hun : t.cpuProtected (p1 - BitVec.ofNat 20 m) = false := by rw [ht.frame]; exact hf.unprotected m hm
  have hsmall := hf.small
  refine ⟨_, State.storeByte_quiet hq hav hun v, ?_, fun i hi => ?_, fun x hx => ?_⟩
  · rw [ht.frame]
    rfl
  · rw [State.byte_setByte]
    obtain rfl | hne := eq_or_ne i m
    · rw [if_pos rfl, hv]
    · rw [if_neg (addr_sub_ne (by omega) (by omega) hne)]
      exact ht.stored i (by omega)
  · rw [State.byte_setByte, if_neg (hx m (by omega))]
    exact ht.others x fun i hi => hx i (by omega)

end

/-! ## The three loops -/

section
variable {s : State} {p1 p2 : Addr} {n1 n2 : Nat} {f : Nat → Byte} (hf : DecimalFields s p1 p2 n1 n2)
include hf

/-- PACK from F(i) on (R204). -/
theorem packBytes_stored (hv : ∀ i, 1 ≤ i → i < n1 →
      byteOf (lo4 (s.digitByte p2 n2 (2 * i))) (lo4 (s.digitByte p2 n2 (2 * i - 1))) = f i)
    (k i : Nat) (h1 : 1 ≤ i) (hk : i + k ≤ n1) {t : State} (ht : DigitsStored s p1 i f t) :
    ∃ u, packBytes p1 p2 n2 k i t = .ok u ∧ DigitsStored s p1 (i + k) f u := by
  induction k generalizing i t with
  | zero => exact ⟨t, rfl, ht⟩
  | succ k ih =>
    obtain ⟨u, hu, hst⟩ := storeDigit_stored hf ht (by omega) (hv i h1 (by omega))
    obtain ⟨w, hw, hend⟩ := ih (i + 1) (by omega) (by omega) hst
    refine ⟨w, ?_, by rwa [show i + (k + 1) = i + 1 + k by omega]⟩
    rw [packBytes, fetchDigit_stored hf ht (by omega)]
    show (do let y ← t.fetchDigit p2 n2 (2 * i); _) = _
    rw [fetchDigit_stored hf ht (by omega)]
    show (do let t ← t.storeDigit p1 i _; _) = _
    rw [hu]
    exact hw

/-- UNPACK from F(2j - 1) on (R203). -/
theorem unpackBytes_stored {zone : BitVec 4}
    (hodd : ∀ j, 1 ≤ j → 2 * j - 1 < n1 → byteOf zone (lo4 (s.digitByte p2 n2 j)) = f (2 * j - 1))
    (heven : ∀ j, 1 ≤ j → 2 * j < n1 → byteOf zone (hi4 (s.digitByte p2 n2 j)) = f (2 * j))
    (k i j : Nat) (h1 : 1 ≤ j) (hi : i = 2 * j - 1) (hk : i + k ≤ n1) {t : State} (ht : DigitsStored s p1 i f t) :
    ∃ u, unpackBytes zone p1 p2 n2 k i j t = .ok u ∧ DigitsStored s p1 (i + k) f u := by
  induction k using Nat.strong_induction_on generalizing i j t with
  | _ k ih =>
    match k with
    | 0 => exact ⟨t, rfl, ht⟩
    | 1 =>
      subst hi
      obtain ⟨u, hu, hst⟩ := storeDigit_stored hf ht (by omega) (hodd j h1 (by omega))
      refine ⟨u, ?_, hst⟩
      rw [unpackBytes, fetchDigit_stored hf ht (by omega)]
      exact hu
    | k + 2 =>
      subst hi
      obtain ⟨u, hu, hst⟩ := storeDigit_stored hf ht (by omega) (hodd j h1 (by omega))
      have hnext : 2 * j - 1 + 1 = 2 * j := by omega
      rw [hnext] at hst
      obtain ⟨v, hv, hst⟩ := storeDigit_stored hf hst (by omega) (heven j h1 (by omega))
      obtain ⟨w, hw, hend⟩ := ih k (by omega) (2 * j + 1) (j + 1) (by omega) (by omega) (by omega) hst
      refine ⟨w, ?_, by rwa [show 2 * j - 1 + (k + 2) = 2 * j + 1 + k by omega]⟩
      rw [unpackBytes, fetchDigit_stored hf ht (by omega)]
      show (do let t ← t.storeDigit p1 (2 * j - 1) _; _) = _
      rw [hu]
      show (do let u ← u.storeDigit p1 (2 * j - 1 + 1) _; _) = _
      rw [hnext, hv, show 2 * j - 1 + 2 = 2 * j + 1 by omega]
      exact hw

/-- MOVE WITH OFFSET from F(i) on (R205). -/
theorem offsetBytes_stored (hv : ∀ i, 1 ≤ i → i < n1 →
      byteOf (lo4 (s.digitByte p2 n2 i)) (hi4 (s.digitByte p2 n2 (i - 1))) = f i)
    (k i : Nat) (h1 : 1 ≤ i) (hk : i + k ≤ n1) {prev : Byte} (hprev : prev = s.digitByte p2 n2 (i - 1)) {t : State}
    (ht : DigitsStored s p1 i f t) :
    ∃ u, offsetBytes p1 p2 n2 k i prev t = .ok u ∧ DigitsStored s p1 (i + k) f u := by
  induction k generalizing i prev t with
  | zero => exact ⟨t, rfl, ht⟩
  | succ k ih =>
    subst hprev
    obtain ⟨u, hu, hst⟩ := storeDigit_stored hf ht (by omega) (hv i h1 (by omega))
    obtain ⟨w, hw, hend⟩ := ih (i + 1) (by omega) (by omega) rfl hst
    refine ⟨w, ?_, by rwa [show i + (k + 1) = i + 1 + k by omega]⟩
    rw [offsetBytes, fetchDigit_stored hf ht (by omega)]
    show (do let t ← t.storeDigit p1 i _; _) = _
    rw [hu]
    exact hw

end

/-! ## The instructions -/

/-- A place counted from the right end of a field, counted from its left end. -/
theorem addr_from_left {l : BitVec 4} (a : Addr) {i : Nat} (h : i ≤ l.toNat) :
    a + l.setWidth 20 - BitVec.ofNat 20 i = a + BitVec.ofNat 20 (l.toNat - i) := by
  have := l.isLt
  bv_omega

theorem decimalFields_of {s : State} {a1 a2 : Addr} {l1 l2 : BitVec 4} (hq : s.dma = [])
    (hw : s.Writable a1 (l1.toNat + 1) 1) (h2 : s.Installed a2 (l2.toNat + 1))
    (ho : ∀ j k, j < l1.toNat + 1 → k < l2.toNat + 1 → a1 + BitVec.ofNat 20 j ≠ a2 + BitVec.ofNat 20 k) :
    DecimalFields s (a1 + l1.setWidth 20) (a2 + l2.setWidth 20) (l1.toNat + 1) (l2.toNat + 1) := by
  have hl := l1.isLt
  refine ⟨by omega, hq, fun i hi => ?_, fun i hi => ?_, fun j hj => ?_, fun i j hi hj => ?_⟩
  · rw [addr_from_left a1 (by omega)]
    simpa [State.available] using hw.1.1 (l1.toNat - i) (by omega)
  · rw [addr_from_left a1 (by omega)]
    exact hw.2 (l1.toNat - i) (by omega)
  · rw [addr_from_left a2 (by omega)]
    simpa [State.available] using h2 (l2.toNat - j) (by omega)
  · rw [addr_from_left a1 (by omega), addr_from_left a2 (by omega)]
    exact ho _ _ (by omega) (by omega)

theorem DigitsStored.storeResult {s t : State} {a1 : Addr} {l1 : BitVec 4} {f : Nat → Byte}
    (h : DigitsStored s (a1 + l1.setWidth 20) (l1.toNat + 1) f t) :
    StoreResult s a1 ((List.range (l1.toNat + 1)).map fun k => f (l1.toNat - k)) s.psw.cc t := by
  have hplace (k : Nat) (hk : k < l1.toNat + 1) :
      a1 + l1.setWidth 20 - BitVec.ofNat 20 (l1.toNat - k) = a1 + BitVec.ofNat 20 k := by
    rw [addr_from_left a1 (by omega), Nat.sub_sub_self (by omega)]
  refine ⟨?_, ?_, fun x hx => h.others x fun i hi => ?_, fun q _ => ?_, ?_, ?_⟩
  · rw [State.bytes_eq_iff]
    intro k hk
    rw [List.length_map, List.length_range] at hk
    rw [← hplace k hk, h.stored _ (by omega)]
    simp
  · rw [h.frame]
  · rw [addr_from_left a1 (by omega)]
    exact hx _ (by simp)
  · rw [h.frame]
    rfl
  · rw [h.frame]
  · rw [h.frame]
    rfl

/-- Settles O38: each loop stores the stated bytes, the rightmost one before it. -/
theorem movesDecimalDigits : Obligations.MovesDecimalDigits := by
  intro s l1 l2 b1 b2 d1 d2 n1 n2 a1 a2 src left right field zone hq hw h2 ho
  have hf := decimalFields_of hq hw h2 ho
  have hsrc (j : Nat) : s.digitByte (a2 + l2.setWidth 20) n2 j = src j := by
    unfold State.digitByte
    refine if_ctx_congr Iff.rfl (fun hj => ?_) fun _ => rfl
    rw [addr_from_left a2 (by omega)]
  have hfirst : s.fetchByte (a2 + l2.setWidth 20) = .ok (src 0, s) := by
    have := fetchDigit_stored hf (digitsStored_zero s (a1 + l1.setWidth 20) fun _ => 0#8) (by omega) 0
    rw [hsrc, State.fetchDigit, if_pos (by omega)] at this
    simpa using this
  have hstored (i : Instr) (f : Nat → Byte) {x : Stage State} (he : exec i s = storedField a1 n1 x)
      (hx : ∃ t, x = .ok t ∧ DigitsStored s (a1 + l1.setWidth 20) (1 + l1.toNat) f t) :
      Completes i s (StoreResult s a1 (field f) s.psw.cc) := by
    obtain ⟨t, rfl, ht⟩ := hx
    rw [Nat.add_comm] at ht
    exact ⟨t, he, ht.storeResult⟩
  clear_value field
  refine ⟨?pack, ?unpk, ?mvo⟩
  case pack =>
    refine hstored (.pack l1 l2 b1 d1 b2 d2) _ rfl ?_
    obtain ⟨t, ht, hone⟩ := storeDigit_stored hf (digitsStored_zero s _
      fun i => if i = 0 then right (src 0) ++ left (src 0) else right (src (2 * i)) ++ right (src (2 * i - 1)))
      (by omega) (v := swapByte (src 0)) rfl
    obtain ⟨u, hu, hend⟩ := packBytes_stored hf (fun i h1 _ => by
      rw [hsrc, hsrc, if_neg (by omega)]
      rfl) l1.toNat 1 (by omega) (by omega) hone
    refine ⟨u, ?_, hend⟩
    rw [hfirst]
    show (do let t ← s.storeDigit (a1 + l1.setWidth 20) 0 (swapByte (src 0)); _) = _
    rw [ht]
    exact hu
  case unpk =>
    refine hstored (.unpk l1 l2 b1 d1 b2 d2) _ rfl ?_
    obtain ⟨t, ht, hone⟩ := storeDigit_stored hf (digitsStored_zero s _
      fun i => if i = 0 then right (src 0) ++ left (src 0)
        else zone ++ (if i % 2 = 1 then right (src ((i + 1) / 2)) else left (src (i / 2))))
      (by omega) (v := swapByte (src 0)) rfl
    obtain ⟨u, hu, hend⟩ := unpackBytes_stored hf (zone := zone)
      (fun j h1 _ => by
        rw [hsrc, if_neg (by omega), if_pos (by omega), show (2 * j - 1 + 1) / 2 = j by omega]
        rfl)
      (fun j h1 _ => by
        rw [hsrc, if_neg (by omega), if_neg (by omega), show 2 * j / 2 = j by omega]
        rfl) l1.toNat 1 1 (by omega) rfl (by omega) hone
    refine ⟨u, ?_, hend⟩
    rw [hfirst]
    show (do let t ← s.storeDigit (a1 + l1.setWidth 20) 0 (swapByte (src 0)); _) = _
    rw [ht]
    exact hu
  case mvo =>
    refine hstored (.mvo l1 l2 b1 d1 b2 d2) _ rfl ?_
    obtain ⟨t, ht, hone⟩ := storeDigit_stored hf (digitsStored_zero s _
      fun i => if i = 0 then right (src 0) ++ right (s.byte (a1 + l1.setWidth 20)) else right (src i) ++ left (src (i - 1)))
      (by omega) (v := byteOf (lo4 (src 0)) (lo4 (s.byte (a1 + l1.setWidth 20)))) rfl
    obtain ⟨u, hu, hend⟩ := offsetBytes_stored hf (fun i h1 _ => by
      rw [hsrc, hsrc, if_neg (by omega)]
      rfl) l1.toNat 1 (by omega) (by omega) (hsrc 0).symm hone
    have hav := hf.installed1 0 (by omega)
    rw [BitVec.sub_zero] at hav
    refine ⟨u, ?_, hend⟩
    rw [State.fetchByte_quiet hq hav]
    show (do let x ← s.fetchByte (a2 + l2.setWidth 20); _) = _
    rw [hfirst]
    show (do let t ← s.storeDigit (a1 + l1.setWidth 20) 0 (byteOf (lo4 (src 0)) (lo4 (s.byte (a1 + l1.setWidth 20)))); _) = _
    rw [ht]
    exact hu

end Sys2Proof.Machine
end

section
/-! PROOFS.
Floating-point words as numbers (spec/47_floating_point.md): a word is a sign, a characteristic and a fraction; the model's
results are integers cut off after six hexadecimal digits, and the statement's are rational numbers. One lemma says when the
first cut off the second, and one what an instruction that ends with such a result does.
-/
namespace Sys2Proof.Machine

/-! ## Powers of sixteen -/

theorem pow16_pos (n : Int) : 0 < pow16 n := zpow_pos (by norm_num) n

theorem pow16_add (m n : Int) : pow16 (m + n) = pow16 m * pow16 n := zpow_add₀ (by norm_num) m n

theorem pow16_natCast (n : Nat) : pow16 n = ((16 ^ n : Nat) : Rat) := by
  rw [pow16, zpow_natCast]
  push_cast
  rfl

theorem pow16_lt_iff {m n : Int} : pow16 m < pow16 n ↔ m < n := zpow_lt_zpow_iff_right₀ (by norm_num)

theorem pow16_le_iff {m n : Int} : pow16 m ≤ pow16 n ↔ m ≤ n := zpow_le_zpow_iff_right₀ (by norm_num)

/-- A fraction moved `k` digits to the left, with the power of sixteen lowered by `k`. -/
theorem mul_pow16_shift (f k : Nat) (e : Int) : ((f * 16 ^ k : Nat) : Rat) * pow16 (e - k) = f * pow16 e := by
  rw [Nat.cast_mul, ← pow16_natCast, mul_assoc, ← pow16_add, show (k : Int) + (e - k) = e by ring]

/-! ## The parts of a word -/

/-- The fraction of a floating-point word (R421). -/
def fpFrac (v : Word) : Nat := (v.extractLsb' 0 24).toNat

theorem fpFrac_lt (v : Word) : fpFrac v < 16 ^ 6 := by
  have := (v.extractLsb' 0 24).isLt
  exact lt_of_lt_of_le this (by norm_num)

theorem fpChar_lt (v : Word) : fpChar v < 128 := (v.extractLsb' 24 7).isLt

theorem fpUnpack_eq (v : Word) : fpUnpack v = { neg := v.msb, char := fpChar v, frac := fpFrac v } := rfl

theorem fpNumber_eq (v : Word) : fpNumber v = signFactor v.msb * fpFrac v * pow16 (fpChar v - 70) := by
  rw [fpNumber, show ((fpChar v : Int) - 70) = fpChar v - 64 - 6 by ring]
  rfl

theorem fpUlp_eq (v : Word) : fpUlp v = pow16 (fpChar v - 70) := by
  rw [fpUlp, show ((fpChar v : Int) - 70) = fpChar v - 64 - 6 by ring]
  rfl

theorem abs_signFactor (b : Bool) : |signFactor b| = 1 := by
  cases b <;> simp [signFactor]

theorem abs_fpNumber (v : Word) : |fpNumber v| = fpFrac v * pow16 (fpChar v - 70) := by
  rw [fpNumber_eq, abs_mul, abs_mul, abs_signFactor, one_mul, Nat.abs_cast, abs_of_pos (pow16_pos _)]

theorem fpNumber_eq_sign (v : Word) : fpNumber v = signFactor v.msb * |fpNumber v| := by
  rw [abs_fpNumber, fpNumber_eq, mul_assoc]

theorem fpNumber_eq_zero_iff (v : Word) : fpNumber v = 0 ↔ fpFrac v = 0 := by
  rw [← abs_eq_zero, abs_fpNumber, mul_eq_zero, Nat.cast_eq_zero]
  exact or_iff_left (pow16_pos _).ne'

/-- The condition code of a word is the sign of its number (R425). -/
theorem ccF_eq (v : Word) : ccF v = ccOfRat (fpNumber v) := by
  have hzero : slice v 8 24 = 0#24 ↔ fpNumber v = 0 := by
    rw [fpNumber_eq_zero_iff, ← BitVec.toNat_inj]
    rfl
  rw [ccF, ccOfRat, if_congr hzero rfl rfl]
  split
  · rfl
  · rename_i hne
    have habs : 0 < |fpNumber v| := abs_pos.2 hne
    refine if_congr ?_ rfl rfl
    rw [fpNumber_eq_sign]
    cases v.msb <;> simp [signFactor, hne]

/-! ## Packed words -/

theorem append3_toNat (a : BitVec 1) (b : BitVec 7) (c : BitVec 24) :
    (a ++ b ++ c : Word).toNat = a.toNat * 2 ^ 31 + b.toNat * 2 ^ 24 + c.toNat := by
  rw [BitVec.toNat_append, ← Nat.shiftLeft_add_eq_or_of_lt c.isLt, Nat.shiftLeft_eq, BitVec.toNat_append,
    ← Nat.shiftLeft_add_eq_or_of_lt b.isLt, Nat.shiftLeft_eq]
  ring

theorem fpFrac_append (a : BitVec 1) (b : BitVec 7) (c : BitVec 24) : fpFrac (a ++ b ++ c : Word) = c.toNat := by
  rw [fpFrac, BitVec.extractLsb'_toNat, append3_toNat]
  have := c.isLt
  simp only [Nat.shiftRight_zero]
  omega

theorem fpChar_append (a : BitVec 1) (b : BitVec 7) (c : BitVec 24) : fpChar (a ++ b ++ c : Word) = b.toNat := by
  rw [fpChar, BitVec.extractLsb'_toNat, append3_toNat, Nat.shiftRight_eq_div_pow]
  have := a.isLt
  have := b.isLt
  have := c.isLt
  omega

theorem msb_append3 (a : Bool) (b : BitVec 7) (c : BitVec 24) : (BitVec.ofBool a ++ b ++ c : Word).msb = a := by
  rw [BitVec.msb_eq_decide, append3_toNat]
  have := b.isLt
  have := c.isLt
  cases a <;> simp <;> omega

theorem fpPack_msb (neg : Bool) (c : Int) (f : Nat) : (fpPack neg c f).msb = neg := msb_append3 _ _ _

theorem fpFrac_fpPack (neg : Bool) (c : Int) {f : Nat} (h : f < 16 ^ 6) : fpFrac (fpPack neg c f) = f := by
  rw [fpPack, fpFrac_append, BitVec.toNat_ofNat, Nat.mod_eq_of_lt (lt_of_lt_of_le h (by norm_num))]

/-- The characteristic is taken modulo 128 (R490, R491). -/
theorem fpChar_fpPack (neg : Bool) {c : Int} (f : Nat) {k : Nat} (hk : k < 128) (hc : c = k ∨ c = k + 128 ∨ c = k - 128) :
    fpChar (fpPack neg c f) = k := by
  rw [fpPack, fpChar_append, BitVec.toNat_ofInt]
  omega

theorem fpNormalized_iff (v : Word) : FpNormalized v ↔ 16 ^ 5 ≤ fpFrac v := by
  rw [FpNormalized, ne_eq, ← BitVec.toNat_inj, fpFrac, BitVec.extractLsb'_toNat, BitVec.extractLsb'_toNat,
    Nat.shiftRight_eq_div_pow]
  simp only [Nat.shiftRight_zero, BitVec.toNat_ofNat]
  have := v.isLt
  omega

/-! ## Numbers cut off -/

/-- The fraction `f` at the characteristic `c` is `x` cut off after the last digit, `neg` the sign of `x` (R424). -/
def CutsOff (neg : Bool) (c : Int) (f : Nat) (x : Rat) : Prop :=
  f * pow16 (c - 70) ≤ |x| ∧ |x| < (f + 1) * pow16 (c - 70) ∧ (neg = true ↔ x < 0)

/-- Dropping the last `j` digits of an integer cuts it off. -/
theorem cutsOff_of_div {neg : Bool} {x : Rat} {M j f : Nat} {c e : Int} (hx : |x| = M * pow16 e) (hf : f = M / 16 ^ j)
    (hc : c = e + j + 70) (hneg : neg = true ↔ x < 0) : CutsOff neg c f x := by
  have hlow : f * 16 ^ j ≤ M := hf ▸ Nat.div_mul_le_self M (16 ^ j)
  have hhigh : M < (f + 1) * 16 ^ j := by
    rw [hf, add_mul, one_mul]
    exact Nat.lt_div_mul_add (by positivity)
  have hp : pow16 (c - 70) = ((16 ^ j : Nat) : Rat) * pow16 e := by
    rw [← pow16_natCast, ← pow16_add]
    congr 1
    omega
  refine ⟨?_, ?_, hneg⟩
  · rw [hx, hp, ← mul_assoc]
    exact mul_le_mul_of_nonneg_right (by exact_mod_cast hlow) (pow16_pos e).le
  · rw [hx, hp, ← mul_assoc]
    exact mul_lt_mul_of_pos_right (by exact_mod_cast hhigh) (pow16_pos e)

/-- Where a normalized cut-off number lies. -/
theorem CutsOff.range {neg : Bool} {c : Int} {f : Nat} {x : Rat} (h : CutsOff neg c f x) (h5 : 16 ^ 5 ≤ f)
    (h6 : f < 16 ^ 6) : pow16 (c - 65) ≤ |x| ∧ |x| < pow16 (c - 64) := by
  obtain ⟨hlow, hhigh, _⟩ := h
  have hp := pow16_pos (c - 70)
  have h5' : pow16 (c - 65) = ((16 ^ 5 : Nat) : Rat) * pow16 (c - 70) := by
    rw [← pow16_natCast, ← pow16_add]
    congr 1
    push_cast
    ring
  have h6' : pow16 (c - 64) = ((16 ^ 6 : Nat) : Rat) * pow16 (c - 70) := by
    rw [← pow16_natCast, ← pow16_add]
    congr 1
    push_cast
    ring
  constructor
  · rw [h5']
    exact le_trans (mul_le_mul_of_nonneg_right (by exact_mod_cast h5) hp.le) hlow
  · rw [h6']
    exact lt_of_lt_of_le hhigh (mul_le_mul_of_nonneg_right (by exact_mod_cast Nat.succ_le_of_lt h6) hp.le)

/-- A power of sixteen more or less moves the characteristic. -/
theorem CutsOff.scale {neg : Bool} {c : Int} {f : Nat} {x : Rat} (h : CutsOff neg c f x) (k : Int) :
    CutsOff neg (c + k) f (x * pow16 k) := by
  obtain ⟨hlow, hhigh, hneg⟩ := h
  have hk := pow16_pos k
  have habs : |x * pow16 k| = |x| * pow16 k := by rw [abs_mul, abs_of_pos hk]
  have hp : pow16 (c + k - 70) = pow16 (c - 70) * pow16 k := by
    rw [← pow16_add]
    congr 1
    ring
  refine ⟨?_, ?_, ?_⟩
  · rw [habs, hp, ← mul_assoc]
    exact mul_le_mul_of_nonneg_right hlow hk.le
  · rw [habs, hp, ← mul_assoc]
    exact mul_lt_mul_of_pos_right hhigh hk
  · rw [hneg, mul_neg_iff]
    constructor
    · exact fun hx => .inr ⟨hx, hk⟩
    · rintro (⟨_, h⟩ | ⟨h, _⟩)
      · exact absurd h hk.le.not_gt
      · exact h

/-- The packed word of a number cut off at a characteristic that fits. -/
theorem CutsOff.fpCuts {neg : Bool} {k f : Nat} {x : Rat} {v : Word} (h : CutsOff neg k f x) (hneg : v.msb = neg)
    (hchar : fpChar v = k) (hfrac : fpFrac v = f) : FpCuts v x := by
  obtain ⟨hlow, hhigh, hsign⟩ := h
  refine ⟨?_, ?_, ?_⟩
  · rw [abs_fpNumber, hchar, hfrac]
    exact hlow
  · rw [abs_fpNumber, fpUlp_eq, hchar, hfrac]
    rwa [add_mul, one_mul] at hhigh
  · rw [hneg]
    exact hsign

/-- The parts of a normalized result that is `x` cut off, before the characteristic is taken modulo 128. -/
structure FpParts.Truncates (p : FpParts) (x : Rat) : Prop where
  cuts : CutsOff p.neg p.char p.frac x
  digit : 16 ^ 5 ≤ p.frac
  frac_lt : p.frac < 16 ^ 6
  le_char : -128 ≤ p.char
  char_lt : p.char < 256

/-! ## Endings -/

theorem fpRange_inside {c : Int} (h0 : 0 ≤ c) (h1 : c ≤ 127) : fpRange c = .inside := by
  rw [fpRange, if_neg (by omega), if_neg (by omega)]

theorem fpRange_above {c : Int} (h : 127 < c) : fpRange c = .above := if_pos h

theorem fpRange_below {c : Int} (h : c < 0) : fpRange c = .below := by
  rw [fpRange, if_neg (by omega), if_pos h]

/-- An operation on zero ends with none of the ways of a result that is not zero. -/
theorem endsFp_zero (i : Instr) (s : State) (p : Word → State → Prop) : EndsFp i s 0 p := by
  refine ⟨fun h => absurd h.1 ?_, fun h => absurd h ?_, fun h => absurd rfl h, fun h => absurd rfl h⟩
  · rw [abs_zero]
    exact (pow16_pos _).not_ge
  · rw [abs_zero]
    exact (pow16_pos _).not_ge

/-- The end of an operation with a normalized result that is `x` cut off, by the range of its characteristic (R490, R491). -/
theorem FpParts.Truncates.endsFp {i : Instr} {s : State} {q : FpParts} {x : Rat} {p : Word → State → Prop} {put : Word → State}
    (he : exec i s = complete (fpException s.maskUnderflow q) (put (fpWord s.maskUnderflow q)))
    (hp : ∀ v, p v (put v)) (hq : q.Truncates x) : EndsFp i s x p := by
  obtain ⟨hx, h5, h6, hlow, hhigh⟩ := hq
  obtain ⟨hfrom, hto⟩ := hx.range h5 h6
  have hfrac := fpFrac_fpPack q.neg q.char h6
  have hnorm : FpNormalized (fpPack q.neg q.char q.frac) := (fpNormalized_iff _).2 (by rw [hfrac]; exact h5)
  have hcuts {k : Nat} {y : Rat} (hk : k < 128) (hc : q.char = k ∨ q.char = k + 128 ∨ q.char = k - 128)
      (hy : CutsOff q.neg k q.frac y) : FpCuts (fpPack q.neg q.char q.frac) y :=
    hy.fpCuts (fpPack_msb _ _ _) (fpChar_fpPack _ _ hk hc) hfrac
  refine ⟨fun hfits => ?inside, fun hbig => ?above, fun hne hsmall hmask => ?below, fun hne hsmall hmask => ?masked⟩
  case inside =>
    have h0 : 0 ≤ q.char := by
      have := pow16_lt_iff.1 (lt_of_le_of_lt hfits.1 hto)
      omega
    have h1 : q.char ≤ 127 := by
      have := pow16_lt_iff.1 (lt_of_le_of_lt hfrom hfits.2)
      omega
    obtain ⟨k, hk⟩ := Int.eq_ofNat_of_zero_le h0
    refine ⟨_, hnorm, hcuts (k := k) (by omega) (.inl hk) (by rw [hk] at hx; exact hx), put _, ?_, hp _⟩
    rw [he, fpException, fpWord, fpRange_inside h0 h1]
    rfl
  case above =>
    have h1 : 127 < q.char := by
      have := pow16_lt_iff.1 (lt_of_le_of_lt hbig hto)
      omega
    obtain ⟨k, hk⟩ := Int.eq_ofNat_of_zero_le (show 0 ≤ q.char - 128 by omega)
    have hscaled : CutsOff q.neg k q.frac (x / pow16 128) := by
      have := hx.scale (-128)
      rwa [← sub_eq_add_neg, hk, pow16, zpow_neg, ← div_eq_mul_inv] at this
    refine ⟨_, hnorm, hcuts (k := k) (by omega) (.inr (.inl (by omega))) hscaled, put _, ?_, hp _⟩
    rw [he, fpException, fpWord, fpRange_above h1]
    rfl
  case below =>
    have h0 : q.char < 0 := by
      have := pow16_lt_iff.1 (lt_of_le_of_lt hfrom hsmall)
      omega
    obtain ⟨k, hk⟩ := Int.eq_ofNat_of_zero_le (show 0 ≤ q.char + 128 by omega)
    refine ⟨_, hnorm, hcuts (k := k) (by omega) (.inr (.inr (by omega))) (by rw [← hk]; exact hx.scale 128), put _, ?_,
      hp _⟩
    rw [he, fpException, fpWord, fpRange_below h0, hmask]
    rfl
  case masked =>
    have h0 : q.char < 0 := by
      have := pow16_lt_iff.1 (lt_of_le_of_lt hfrom hsmall)
      omega
    refine ⟨put 0#32, ?_, hp _⟩
    rw [he, fpException, fpWord, fpRange_below h0, hmask]
    rfl

end Sys2Proof.Machine
end

section
/-! PROOFS.
The floating-point instructions (spec/47_floating_point.md): signs, the guarded sum of an addition or comparison, and products
and quotients of normalized fractions. Each result is an integer whose last digits are dropped.
-/
namespace Sys2Proof.Machine

/-! ## Endings of the register forms -/

theorem needFps_fp {s : State} {r q : Reg} (hr : fpReg r = true) (hq : fpReg q = true) (k : Result) :
    needFps s r q k = k := by
  rw [needFps, needFp_fp hr, needFp_fp hq]

/-- An operand in storage, once its word has been read and the register number has passed. -/
theorem withWord_needFp {s : State} {a : Addr} {r : Reg} (hq : s.dma = []) (hr : s.Readable a 4 4)
    (hf : fpReg r = true) (spoil : State → State) (k : Word → State → Result) :
    withWord s a spoil (fun v t => needFp t r (k v t)) = k (s.word a) s :=
  (withWord_quiet hq hr _ _).trans (needFp_fp hf _)

/-! ## Signs -/

/-- A word with another sign. -/
theorem fpFrac_signed (b : Bool) (v : Word) : fpFrac (BitVec.ofBool b ++ v.extractLsb' 0 31 : Word) = fpFrac v := by
  rw [fpFrac, fpFrac, BitVec.extractLsb'_append_eq_of_add_le (by decide)]
  apply BitVec.toNat_inj.2
  ext k hk
  simp

theorem fpChar_signed (b : Bool) (v : Word) : fpChar (BitVec.ofBool b ++ v.extractLsb' 0 31 : Word) = fpChar v := by
  rw [fpChar, fpChar, BitVec.extractLsb'_append_eq_of_add_le (by decide)]
  apply BitVec.toNat_inj.2
  ext k hk
  simp

theorem msb_signed (b : Bool) (v : Word) : (BitVec.ofBool b ++ v.extractLsb' 0 31 : Word).msb = b := by
  rw [BitVec.msb_append]
  cases b <;> rfl

theorem fpNumber_signed (b : Bool) (v : Word) :
    fpNumber (BitVec.ofBool b ++ v.extractLsb' 0 31 : Word) = signFactor b * |fpNumber v| := by
  rw [fpNumber_eq, msb_signed, fpFrac_signed, fpChar_signed, abs_fpNumber, mul_assoc]

/-- A word is its sign before its other bits. -/
theorem eq_signed {w v : Word} {b : Bool} (h : ∀ k, k < 32 → w.getLsbD k = if k = 31 then b else v.getLsbD k) :
    w = BitVec.ofBool b ++ v.extractLsb' 0 31 := by
  apply BitVec.eq_of_getLsbD_eq
  intro k hk
  rw [h k hk, BitVec.getLsbD_append]
  by_cases he : k = 31
  · subst he
    simp
  · rw [if_neg he, if_pos (by omega), BitVec.getLsbD_extractLsb', decide_eq_true (by omega), Bool.true_and, Nat.zero_add]

theorem fpNegate_eq (v : Word) : fpNegate v = BitVec.ofBool (!v.msb) ++ v.extractLsb' 0 31 := by
  refine eq_signed fun k hk => ?_
  rw [fpNegate, show 0x80000000#32 = BitVec.twoPow 32 31 from rfl, BitVec.msb_eq_getLsbD_last]
  by_cases he : k = 31
  · simp [he]
  · simp [he, Ne.symm he]

/-- Clearing the sign by a mask (R434). -/
theorem and_mask_eq (v : Word) : v &&& 0x7FFFFFFF#32 = BitVec.ofBool false ++ v.extractLsb' 0 31 := by
  refine eq_signed fun k hk => ?_
  rw [show 0x7FFFFFFF#32 = ~~~BitVec.twoPow 32 31 from rfl]
  by_cases he : k = 31
  · simp [he]
  · simp [he, hk]

/-- Setting the sign by a mask (R435). -/
theorem or_mask_eq (v : Word) : v ||| 0x80000000#32 = BitVec.ofBool true ++ v.extractLsb' 0 31 := by
  refine eq_signed fun k hk => ?_
  rw [show 0x80000000#32 = BitVec.twoPow 32 31 from rfl]
  by_cases he : k = 31
  · simp [he]
  · simp [he, Ne.symm he]

theorem signFactor_not (b : Bool) : signFactor (!b) = -signFactor b := by
  cases b <;> simp [signFactor]

theorem fpNumber_fpNegate (v : Word) : fpNumber (fpNegate v) = -fpNumber v := by
  rw [fpNegate_eq, fpNumber_signed, signFactor_not, neg_mul, ← fpNumber_eq_sign]

/-- An instruction that puts a word in a floating-point register and sets the condition code to its sign. -/
theorem completes_putFpTest {i : Instr} {s : State} {r : Reg} {z v : Word} {x : Rat} (he : exec i s = putFpTest r z s)
    (hr : fpReg r = true) (hz : z = v) (hx : fpNumber v = x) : Completes i s (FprResult s r v (ccOfRat x)) := by
  subst hz hx
  rw [← ccF_eq]
  exact ⟨_, he, fprResult_setFp_setCc s hr z (ccF z)⟩

/-- Settles O49: only the sign of the word changes. -/
theorem loadsFloating : Obligations.LoadsFloating := by
  intro s r1 r2 x2 b2 d2 h1 h2 a v rest signed
  have checked (k : Result) : needFps s r1 r2 k = k := needFps_fp h1 h2 k
  refine ⟨?ler, ?lter, ?lcer, ?lper, ?lner, fun hq hr => ?le⟩
  case ler => exact ⟨_, checked _, fprResult_setFp s h1 v⟩
  case lter => exact completes_putFpTest (checked _) h1 rfl rfl
  case lcer => exact completes_putFpTest (checked _) h1 (fpNegate_eq v) (by rw [← fpNumber_fpNegate, fpNegate_eq])
  case lper =>
    exact completes_putFpTest (checked _) h1 (and_mask_eq v) ((fpNumber_signed false v).trans (one_mul _))
  case lner =>
    exact completes_putFpTest (checked _) h1 (or_mask_eq v) ((fpNumber_signed true v).trans (neg_one_mul _))
  case le => exact ⟨_, withWord_needFp hq hr h1 _ _, fprResult_setFp s h1 _⟩

/-! ## The guarded sum -/

/-- The signed seven-digit integer of an operand at the characteristic `c` (R436). -/
def guardedInt (c : Nat) (v : Word) : Int := signed v.msb (fpFrac v * 16 / 16 ^ (c - fpChar v))

theorem signed_cast (b : Bool) (m : Nat) : ((signed b m : Int) : Rat) = signFactor b * (m : Rat) := by
  cases b <;> simp [signed, signFactor]

theorem fpGuarded_eq (c : Nat) (v : Word) : fpGuarded c v = guardedInt c v * pow16 (c - 71) := by
  rw [guardedInt, signed_cast, fpGuarded, show ((c : Int) - 64 - 7) = c - 71 by ring]
  rfl

theorem signed_not (b : Bool) (m : Nat) : signed (!b) m = -signed b m := by
  cases b <;> simp [signed]

theorem fpChar_fpNegate (v : Word) : fpChar (fpNegate v) = fpChar v := by rw [fpNegate_eq, fpChar_signed]

theorem guardedInt_fpNegate (c : Nat) (v : Word) : guardedInt c (fpNegate v) = -guardedInt c v := by
  rw [guardedInt, fpNegate_eq, msb_signed, fpFrac_signed, fpChar_signed, signed_not, guardedInt]

theorem natAbs_signed (b : Bool) (m : Nat) : (signed b m).natAbs = m := by
  cases b
  · exact Int.natAbs_natCast m
  · exact Int.natAbs_neg m

theorem natAbs_guardedInt_lt (c : Nat) (v : Word) : (guardedInt c v).natAbs < 16 ^ 7 := by
  have hm : fpFrac v * 16 / 16 ^ (c - fpChar v) < 16 ^ 7 :=
    lt_of_le_of_lt (Nat.div_le_self _ _) (by have := fpFrac_lt v; omega)
  rwa [guardedInt, natAbs_signed]

/-- The greater characteristic of two words. -/
def maxChar (v w : Word) : Nat := max (fpChar v) (fpChar w)

/-- Both operands at the greater characteristic (R429). -/
theorem fpAlign_eq (v w : Word) :
    fpAlign (fpUnpack v) (fpUnpack w) = ((maxChar v w : Int), guardedInt (maxChar v w) v, guardedInt (maxChar v w) w) := by
  rw [fpAlign, fpUnpack_eq, fpUnpack_eq, guardedInt, guardedInt, maxChar]
  by_cases h : (fpChar w : Int) ≤ fpChar v
  · rw [if_pos h]
    have hmax : max (fpChar v) (fpChar w) = fpChar v := max_eq_left (by omega)
    rw [hmax, Nat.sub_self, pow_zero, Nat.div_one, show ((fpChar v : Int) - fpChar w).toNat = fpChar v - fpChar w by omega]
  · rw [if_neg h]
    have hmax : max (fpChar v) (fpChar w) = fpChar w := max_eq_right (by omega)
    rw [hmax, Nat.sub_self, pow_zero, Nat.div_one, show ((fpChar w : Int) - fpChar v).toNat = fpChar w - fpChar v by omega]

/-- The intermediate sum as an integer of seven digits and a carry. -/
def guardedIntSum (v w : Word) : Int := guardedInt (maxChar v w) v + guardedInt (maxChar v w) w

theorem fpGuardedSum_eq (v w : Word) : fpGuardedSum v w = guardedIntSum v w * pow16 (maxChar v w - 71) := by
  rw [fpGuardedSum, ← maxChar, fpGuarded_eq, fpGuarded_eq, ← add_mul, guardedIntSum, Int.cast_add]

theorem maxChar_lt (v w : Word) : maxChar v w < 128 := max_lt (fpChar_lt v) (fpChar_lt w)

theorem natAbs_guardedIntSum_lt (v w : Word) : (guardedIntSum v w).natAbs < 2 * 16 ^ 7 := by
  have h1 := natAbs_guardedInt_lt (maxChar v w) v
  have h2 := natAbs_guardedInt_lt (maxChar v w) w
  have := Int.natAbs_add_le (guardedInt (maxChar v w) v) (guardedInt (maxChar v w) w)
  rw [guardedIntSum]
  omega

theorem abs_fpGuardedSum (v w : Word) :
    |fpGuardedSum v w| = (guardedIntSum v w).natAbs * pow16 (maxChar v w - 71) := by
  rw [fpGuardedSum_eq, abs_mul, abs_of_pos (pow16_pos _), Nat.cast_natAbs, Int.cast_abs]

theorem fpGuardedSum_neg_iff (v w : Word) : fpGuardedSum v w < 0 ↔ guardedIntSum v w < 0 := by
  rw [fpGuardedSum_eq, mul_neg_iff, and_iff_left (pow16_pos _), Int.cast_lt_zero]
  exact or_iff_right fun h => absurd h.2 (pow16_pos _).le.not_gt

theorem fpGuardedSum_eq_zero_iff (v w : Word) : fpGuardedSum v w = 0 ↔ guardedIntSum v w = 0 := by
  rw [fpGuardedSum_eq, mul_eq_zero, Int.cast_eq_zero]
  exact or_iff_left (pow16_pos _).ne'

/-! ## Comparison -/

/-- Settles O53: the comparison is the sign of the intermediate difference. -/
theorem comparesFloating : Obligations.ComparesFloating := by
  intro s r1 r2 x2 b2 d2 h1 h2 a code
  have hcode (w : Word) : fpCompare (s.fp r1) w = code w := by
    show _ = ccOfRat (fpGuardedSum (s.fp r1) (fpNegate w))
    have hmax : maxChar (s.fp r1) (fpNegate w) = maxChar (s.fp r1) w := by rw [maxChar, fpChar_fpNegate, maxChar]
    have hdiff : guardedIntSum (s.fp r1) (fpNegate w) =
        guardedInt (maxChar (s.fp r1) w) (s.fp r1) - guardedInt (maxChar (s.fp r1) w) w := by
      rw [guardedIntSum, hmax, guardedInt_fpNegate, sub_eq_add_neg]
    simp only [fpCompare, fpAlign_eq]
    rw [ccCompare_eq, ccOfOrder, ← hdiff, ccOfRat, ccOfSign, if_congr (fpGuardedSum_eq_zero_iff _ _) rfl rfl,
      if_congr (fpGuardedSum_neg_iff _ _) rfl rfl]
  refine ⟨?cer, fun hq hr => ?ce⟩
  case cer =>
    rw [← hcode]
    exact ⟨_, needFps_fp h1 h2 _, ccResult_setCc s _⟩
  case ce =>
    rw [← hcode]
    exact ⟨_, withWord_needFp hq hr h1 _ fun v s => .next (s.setCc (fpCompare (s.fp r1) v)), ccResult_setCc s _⟩

end Sys2Proof.Machine
end

section
/-! PROOFS.
Floating-point addition: the guarded sum is an integer of seven digits and a carry, from which the last digits are dropped.
-/
namespace Sys2Proof.Machine

/-! ## Normalizing -/

/-- The shift stops at the first fraction that is not below the bound. -/
theorem normalizeFrac_eq {bound fuel f : Nat} (c : Int) (h : bound ≤ f * 16 ^ fuel) :
    ∃ k : Nat, normalizeFrac bound fuel c f = (c - k, f * 16 ^ k) ∧ k ≤ fuel ∧ bound ≤ f * 16 ^ k ∧
      (f < 16 * bound → f * 16 ^ k < 16 * bound) := by
  induction fuel generalizing c f with
  | zero => exact ⟨0, by simp [normalizeFrac], le_refl _, h, by simp⟩
  | succ fuel ih =>
    rw [normalizeFrac]
    split
    case isTrue hlow =>
      obtain ⟨k, heq, hk, hge, hlt⟩ := ih (f := f * 16) (c - 1) (by rw [mul_assoc, ← pow_succ']; exact h)
      refine ⟨k + 1, ?_, by omega, by rwa [pow_succ', ← mul_assoc], fun _ => ?_⟩
      · rw [heq, pow_succ', ← mul_assoc]
        push_cast
        congr 1
        ring
      · rw [pow_succ', ← mul_assoc]
        exact hlt (by omega)
    case isFalse hhigh => exact ⟨0, by simp, by omega, by omega, by simp⟩

theorem normalizeFrac_ge {bound f : Nat} (fuel : Nat) (c : Int) (h : bound ≤ f) : normalizeFrac bound fuel c f = (c, f) := by
  cases fuel with
  | zero => rfl
  | succ fuel => exact if_neg h.not_gt

/-! ## The sum -/

theorem fpSum_carry {v w : Word} (h : 16 ^ 7 ≤ (guardedIntSum v w).natAbs) :
    fpSum (fpUnpack v) (fpUnpack w) =
      { neg := decide (guardedIntSum v w < 0), char := maxChar v w + 1, frac := (guardedIntSum v w).natAbs / 16 } := by
  rw [fpSum, fpAlign_eq]
  exact if_pos h

theorem fpSum_noCarry {v w : Word} (h : (guardedIntSum v w).natAbs < 16 ^ 7) :
    fpSum (fpUnpack v) (fpUnpack w) =
      { neg := decide (guardedIntSum v w < 0), char := maxChar v w, frac := (guardedIntSum v w).natAbs } := by
  rw [fpSum, fpAlign_eq]
  exact if_neg h.not_ge

/-- The sign of the sum. -/
theorem guardedIntSum_sign (v w : Word) : decide (guardedIntSum v w < 0) = true ↔ fpGuardedSum v w < 0 := by
  rw [decide_eq_true_eq, fpGuardedSum_neg_iff]

section
variable {i : Instr} {s : State} {r : Reg} {v w : Word}

theorem fpAdd_of_zero {n : Bool} {c : Int} (h : fpAddResult n (fpUnpack v) (fpUnpack w) = .zero c) :
    fpAdd n r v w s = fpSignificance r c s := by
  rw [fpAdd, h]

theorem fpAdd_of_value {n : Bool} {p : FpParts} (h : fpAddResult n (fpUnpack v) (fpUnpack w) = .value p) :
    fpAdd n r v w s = complete (fpException s.maskUnderflow p)
      ((s.setFp r (fpWord s.maskUnderflow p)).setCc (ccF (fpWord s.maskUnderflow p))) := by
  rw [fpAdd, h]

variable (hr : fpReg r = true)
include hr

/-- The end of an addition with nothing significant in its result (R492). -/
theorem endsSignificance_of {c : Nat} (he : exec i s = fpSignificance r c s) : EndsSignificance i s r c := by
  refine ⟨fun hm => ?_, fun hm => ?_⟩
  · rw [fpSignificance, hm] at he
    exact ⟨_, he, fprResult_setFp_setCc s hr _ 0⟩
  · rw [fpSignificance, hm] at he
    have hv : (0#1 ++ BitVec.ofNat 7 c ++ 0#24 : Word) = fpPack false c 0 := by
      rw [fpPack, BitVec.ofInt_natCast]
      rfl
    rw [hv]
    exact ⟨_, he, fprResult_setFp_setCc s hr _ 0⟩

/-- What an addition leaves with the word `z`. -/
theorem fprResult_sum (z : Word) : FprResult s r z (ccOfRat (fpNumber z)) ((s.setFp r z).setCc (ccF z)) := by
  rw [← ccF_eq]
  exact fprResult_setFp_setCc s hr z (ccF z)

end

/-! ## Normalized addition -/

theorem fpAddResult_true {v w : Word} {neg : Bool} {c d : Int} {f g : Nat}
    (h : fpSum (fpUnpack v) (fpUnpack w) = { neg := neg, char := c, frac := f }) (hf : f ≠ 0)
    (hn : normalizeFrac (16 ^ 6) 7 c f = (d, g)) :
    fpAddResult true (fpUnpack v) (fpUnpack w) = .value { neg := neg, char := d, frac := g / 16 } := by
  rw [fpAddResult, h, if_pos rfl, if_neg hf, hn]

/-- The sum of two words, postnormalized (R436): seven digits that are cut off after six. -/
theorem fpAddResult_normalized {v w : Word} (h : guardedIntSum v w ≠ 0) :
    ∃ p : FpParts, fpAddResult true (fpUnpack v) (fpUnpack w) = .value p ∧ p.Truncates (fpGuardedSum v w) := by
  have habs := abs_fpGuardedSum v w
  have hlt := natAbs_guardedIntSum_lt v w
  have hchar := maxChar_lt v w
  have hsign := guardedIntSum_sign v w
  have hpos : 0 < (guardedIntSum v w).natAbs := Int.natAbs_pos.2 h
  by_cases hcarry : 16 ^ 7 ≤ (guardedIntSum v w).natAbs
  · have hsum := fpSum_carry hcarry
    generalize (guardedIntSum v w).natAbs = m at *
    refine ⟨_, fpAddResult_true hsum (by omega) (normalizeFrac_ge 7 _ (by omega)),
      ⟨cutsOff_of_div (j := 2) habs (Nat.div_div_eq_div_mul m 16 16) ?_ hsign, ?_, ?_, ?_, ?_⟩⟩
    all_goals dsimp only; omega
  · have hsum := fpSum_noCarry (not_le.1 hcarry)
    generalize (guardedIntSum v w).natAbs = m at *
    obtain ⟨k, hk, hfuel, hge, hless⟩ :=
      normalizeFrac_eq (bound := 16 ^ 6) (fuel := 7) (f := m) (maxChar v w) (by omega)
    have habs' : |fpGuardedSum v w| = (m * 16 ^ k : Nat) * pow16 (maxChar v w - 71 - k) := by rw [mul_pow16_shift, habs]
    have hless := hless (by omega)
    refine ⟨_, fpAddResult_true hsum (by omega) hk, ⟨cutsOff_of_div (j := 1) habs' (by rw [pow_one]) ?_ hsign, ?_, ?_, ?_, ?_⟩⟩
    all_goals dsimp only; omega

section
variable {i : Instr} {s : State} {r : Reg} {v w : Word} (hr : fpReg r = true)
include hr

/-- The end of a normalized addition (R436). -/
theorem ends_fpAdd_normalized (he : exec i s = fpAdd true r v w s) :
    EndsFp i s (fpGuardedSum v w) (fun z => FprResult s r z (ccOfRat (fpNumber z))) ∧
    (fpGuardedSum v w = 0 → EndsSignificance i s r (max (fpChar v) (fpChar w))) := by
  by_cases hzero : guardedIntSum v w = 0
  · have hx := (fpGuardedSum_eq_zero_iff v w).2 hzero
    refine ⟨hx ▸ endsFp_zero i s _, fun _ => endsSignificance_of hr (he.trans (fpAdd_of_zero ?_))⟩
    rw [fpAddResult, fpSum_noCarry (by rw [hzero]; decide), hzero]
    rfl
  · refine ⟨?_, fun hx => absurd ((fpGuardedSum_eq_zero_iff v w).1 hx) hzero⟩
    obtain ⟨p, hp, hsum⟩ := fpAddResult_normalized hzero
    exact hsum.endsFp (put := fun z => (s.setFp r z).setCc (ccF z)) (he.trans (fpAdd_of_value hp)) (fprResult_sum hr)

end

/-- Settles O50: the sum is an integer at the weight of the guard digit, normalized and cut off. -/
theorem addsFloatingNormalized : Obligations.AddsFloatingNormalized := by
  intro s r1 r2 x2 b2 d2 h1 h2 a v ends negated
  refine ⟨ends_fpAdd_normalized h1 (needFps_fp h1 h2 _), ends_fpAdd_normalized h1 (needFps_fp h1 h2 _), fun hq hr =>
    ⟨ends_fpAdd_normalized h1 (withWord_needFp hq hr h1 _ fun w t => fpAdd true r1 (t.fp r1) w t),
      ends_fpAdd_normalized h1 (withWord_needFp hq hr h1 _ fun w t => fpAdd true r1 (t.fp r1) (fpNegate w) t)⟩⟩

end Sys2Proof.Machine
end

section
/-! PROOFS.
Floating-point addition without normalizing: the last digits of the guarded sum are dropped at the greater characteristic, or
at one more after a carry (R438).
-/
namespace Sys2Proof.Machine

/-- An integer at a power of sixteen is below a higher power if it has few digits. -/
theorem mul_pow16_lt_iff (m j : Nat) (e : Int) : (m : Rat) * pow16 e < pow16 (e + j) ↔ m < 16 ^ j := by
  rw [add_comm, pow16_add, pow16_natCast, mul_lt_mul_iff_left₀ (pow16_pos e), Nat.cast_lt]

theorem abs_fpGuardedSum_lt_digit_iff (v w : Word) :
    |fpGuardedSum v w| < pow16 ((maxChar v w : Int) - 64 - 6) ↔ (guardedIntSum v w).natAbs < 16 := by
  rw [abs_fpGuardedSum, show (maxChar v w : Int) - 64 - 6 = maxChar v w - 71 + (1 : Nat) by push_cast; ring,
    mul_pow16_lt_iff, pow_one]

theorem abs_fpGuardedSum_lt_one_iff (v w : Word) :
    |fpGuardedSum v w| < pow16 ((maxChar v w : Int) - 64) ↔ (guardedIntSum v w).natAbs < 16 ^ 7 := by
  rw [abs_fpGuardedSum, show (maxChar v w : Int) - 64 = maxChar v w - 71 + (7 : Nat) by push_cast; ring, mul_pow16_lt_iff]

theorem fpAddResult_false {v w : Word} {neg : Bool} {c : Int} {f : Nat}
    (h : fpSum (fpUnpack v) (fpUnpack w) = { neg := neg, char := c, frac := f }) (hf : f / 16 ≠ 0) :
    fpAddResult false (fpUnpack v) (fpUnpack w) = .value { neg := neg, char := c, frac := f / 16 } := by
  rw [fpAddResult, h, if_neg Bool.false_ne_true, if_neg hf]

theorem fpAddResult_false_zero {v w : Word} (h : (guardedIntSum v w).natAbs < 16) :
    fpAddResult false (fpUnpack v) (fpUnpack w) = .zero (maxChar v w) := by
  rw [fpAddResult, fpSum_noCarry (by omega), if_neg Bool.false_ne_true]
  exact if_pos (Nat.div_eq_of_lt h)

/-- The sum of two words whose integer has no carry. -/
theorem fpAddResult_false_noCarry {v w : Word} (h16 : 16 ≤ (guardedIntSum v w).natAbs)
    (h7 : (guardedIntSum v w).natAbs < 16 ^ 7) :
    ∃ neg f, fpAddResult false (fpUnpack v) (fpUnpack w) = .value { neg := neg, char := maxChar v w, frac := f } ∧
      CutsOff neg (maxChar v w) f (fpGuardedSum v w) ∧ f < 16 ^ 6 :=
  ⟨_, _, fpAddResult_false (fpSum_noCarry h7) (by omega),
    cutsOff_of_div (j := 1) (abs_fpGuardedSum v w) (by rw [pow_one]) (by push_cast; ring) (guardedIntSum_sign v w), by omega⟩

/-- The sum of two words whose integer has a carry. -/
theorem fpAddResult_false_carry {v w : Word} (h7 : 16 ^ 7 ≤ (guardedIntSum v w).natAbs) :
    ∃ neg f, fpAddResult false (fpUnpack v) (fpUnpack w) = .value { neg := neg, char := maxChar v w + 1, frac := f } ∧
      CutsOff neg (maxChar v w + 1) f (fpGuardedSum v w) ∧ f < 16 ^ 6 :=
  ⟨_, _, fpAddResult_false (fpSum_carry h7) (by omega),
    cutsOff_of_div (j := 2) (abs_fpGuardedSum v w) (Nat.div_div_eq_div_mul _ 16 16) (by push_cast; ring)
      (guardedIntSum_sign v w),
    by have := natAbs_guardedIntSum_lt v w; omega⟩

section
variable {i : Instr} {s : State} {r : Reg} {v w : Word} (hr : fpReg r = true)
include hr

/-- A sum whose characteristic fits. -/
theorem completes_fpAdd {neg : Bool} {c f : Nat} {x : Rat} (he : exec i s = fpAdd false r v w s)
    (hres : fpAddResult false (fpUnpack v) (fpUnpack w) = .value { neg := neg, char := c, frac := f })
    (hc : c < 128) (hx : CutsOff neg c f x) (hf : f < 16 ^ 6) :
    ∃ z, fpChar z = c ∧ FpCuts z x ∧ Completes i s (FprResult s r z (ccOfRat (fpNumber z))) := by
  have hchar := fpChar_fpPack neg (c := (c : Int)) f hc (.inl rfl)
  refine ⟨_, hchar, hx.fpCuts (fpPack_msb _ _ _) hchar (fpFrac_fpPack neg c hf), _, ?_, fprResult_sum hr _⟩
  rw [he, fpAdd_of_value hres, fpException, fpWord, fpRange_inside (Int.natCast_nonneg c) (by omega)]
  rfl

/-- A sum at the characteristic 128 (R490). -/
theorem traps_fpAdd {neg : Bool} {f : Nat} {x : Rat} (he : exec i s = fpAdd false r v w s)
    (hres : fpAddResult false (fpUnpack v) (fpUnpack w) = .value { neg := neg, char := 128, frac := f })
    (hx : CutsOff neg 128 f x) (hf : f < 16 ^ 6) :
    ∃ z, fpChar z = 0 ∧ FpCuts z (x / pow16 128) ∧
      TrapsAfter .exponentOverflow i s (FprResult s r z (ccOfRat (fpNumber z))) := by
  have hchar := fpChar_fpPack neg (c := 128) f (by decide : 0 < 128) (.inr (.inl rfl))
  have hscaled : CutsOff neg (0 : Nat) f (x / pow16 128) := by
    have := hx.scale (-128)
    rwa [pow16, zpow_neg, ← div_eq_mul_inv] at this
  refine ⟨_, hchar, hscaled.fpCuts (fpPack_msb _ _ _) hchar (fpFrac_fpPack neg 128 hf), _, ?_, fprResult_sum hr _⟩
  rw [he, fpAdd_of_value hres, fpException, fpWord, fpRange_above (c := 128) (by decide)]
  rfl

/-- The end of an addition without normalizing (R438). -/
theorem ends_fpAdd_unnormalized (he : exec i s = fpAdd false r v w s) :
    (|fpGuardedSum v w| < pow16 ((maxChar v w : Int) - 64 - 6) → EndsSignificance i s r (maxChar v w)) ∧
    (pow16 ((maxChar v w : Int) - 64 - 6) ≤ |fpGuardedSum v w| → |fpGuardedSum v w| < pow16 ((maxChar v w : Int) - 64) →
      ∃ z, fpChar z = maxChar v w ∧ FpCuts z (fpGuardedSum v w) ∧
        Completes i s (FprResult s r z (ccOfRat (fpNumber z)))) ∧
    (pow16 ((maxChar v w : Int) - 64) ≤ |fpGuardedSum v w| → maxChar v w < 127 →
      ∃ z, fpChar z = maxChar v w + 1 ∧ FpCuts z (fpGuardedSum v w) ∧
        Completes i s (FprResult s r z (ccOfRat (fpNumber z)))) ∧
    (pow16 ((maxChar v w : Int) - 64) ≤ |fpGuardedSum v w| → maxChar v w = 127 →
      ∃ z, fpChar z = 0 ∧ FpCuts z (fpGuardedSum v w / pow16 128) ∧
        TrapsAfter .exponentOverflow i s (FprResult s r z (ccOfRat (fpNumber z)))) := by
  simp only [← not_lt, abs_fpGuardedSum_lt_digit_iff, abs_fpGuardedSum_lt_one_iff]
  refine ⟨fun h => ?nothing, fun h16 h7 => ?noCarry, fun h7 hc => ?carry, fun h7 hc => ?overflow⟩
  case nothing => exact endsSignificance_of hr (he.trans (fpAdd_of_zero (fpAddResult_false_zero h)))
  case noCarry =>
    obtain ⟨neg, f, hres, hx, hf⟩ := fpAddResult_false_noCarry (not_lt.1 h16) h7
    exact completes_fpAdd hr he hres (maxChar_lt v w) hx hf
  case carry =>
    obtain ⟨neg, f, hres, hx, hf⟩ := fpAddResult_false_carry (not_lt.1 h7)
    exact completes_fpAdd (c := maxChar v w + 1) hr he hres (by omega) hx hf
  case overflow =>
    obtain ⟨neg, f, hres, hx, hf⟩ := fpAddResult_false_carry (not_lt.1 h7)
    rw [hc] at hres hx
    exact traps_fpAdd hr he hres hx hf

end

/-- Settles O51: the sum is an integer at the weight of the guard digit, cut off where it stands. -/
theorem addsFloatingUnnormalized : Obligations.AddsFloatingUnnormalized := by
  intro s r1 r2 x2 b2 d2 h1 h2 a v ends negated
  refine ⟨ends_fpAdd_unnormalized h1 (needFps_fp h1 h2 _), ends_fpAdd_unnormalized h1 (needFps_fp h1 h2 _), fun hq hr =>
    ⟨ends_fpAdd_unnormalized h1 (withWord_needFp hq hr h1 _ fun w t => fpAdd false r1 (t.fp r1) w t),
      ends_fpAdd_unnormalized h1 (withWord_needFp hq hr h1 _ fun w t => fpAdd false r1 (t.fp r1) (fpNegate w) t)⟩⟩

end Sys2Proof.Machine
end

section
/-! PROOFS.
Floating-point products, quotients and halves (R429): the operands are normalized first, and the exact result, an integer or
a quotient of integers at a power of sixteen, is cut off after six digits.
-/
namespace Sys2Proof.Machine

/-! ## Signs and magnitudes -/

theorem pow16_sub (m n : Int) : pow16 (m - n) = pow16 m / pow16 n := zpow_sub₀ (by norm_num) m n

theorem signFactor_xor (a b : Bool) : signFactor (a ^^ b) = signFactor a * signFactor b := by
  cases a <;> cases b <;> simp [signFactor]

theorem signFactor_div (a b : Bool) : signFactor a / signFactor b = signFactor (a ^^ b) := by
  cases a <;> cases b <;> simp [signFactor]

theorem abs_of_signFactor {b : Bool} {x y : Rat} (hx : x = signFactor b * y) (hy : 0 < y) : |x| = y := by
  rw [hx, abs_mul, abs_signFactor, one_mul, abs_of_pos hy]

theorem sign_of_signFactor {b : Bool} {x y : Rat} (hx : x = signFactor b * y) (hy : 0 < y) : b = true ↔ x < 0 := by
  subst hx
  cases b
  · simpa [signFactor] using hy.le
  · simpa [signFactor] using hy

/-- An integer divided by another is cut off by their quotient. -/
theorem cutsOff_of_quotient {neg : Bool} {x : Rat} {K N f : Nat} {c e : Int} (hx : |x| * N = K * pow16 e) (hN : 0 < N)
    (hf : f = K / N) (hc : c = e + 70) (hneg : neg = true ↔ x < 0) : CutsOff neg c f x := by
  have hNpos : (0 : Rat) < N := Nat.cast_pos.2 hN
  have hp := pow16_pos e
  have hlow : f * N ≤ K := hf ▸ Nat.div_mul_le_self K N
  have hhigh : K < (f + 1) * N := by
    rw [hf, add_mul, one_mul]
    exact Nat.lt_div_mul_add hN
  rw [CutsOff, show c - 70 = e by omega]
  refine ⟨?_, ?_, hneg⟩
  · refine le_of_mul_le_mul_right ?_ hNpos
    rw [hx, mul_right_comm]
    exact mul_le_mul_of_nonneg_right (by exact_mod_cast hlow) hp.le
  · refine lt_of_mul_lt_mul_right ?_ hNpos.le
    rw [hx, mul_right_comm]
    exact mul_lt_mul_of_pos_right (by exact_mod_cast hhigh) hp

/-- An operand with its first digit brought to the front (R429). -/
theorem exists_prenorm {v : Word} (h : fpFrac v ≠ 0) :
    ∃ c : Int, ∃ m : Nat, prenorm (fpChar v) (fpFrac v) = (c, m) ∧ |fpNumber v| = m * pow16 (c - 70) ∧
      16 ^ 5 ≤ m ∧ m < 16 ^ 6 ∧ -6 ≤ c ∧ c ≤ 127 := by
  have hlt := fpFrac_lt v
  have hchar := fpChar_lt v
  obtain ⟨k, hk, hfuel, hge, hless⟩ :=
    normalizeFrac_eq (bound := 16 ^ 5) (fuel := 6) (f := fpFrac v) (fpChar v) (by omega)
  refine ⟨_, _, hk, ?_, hge, hless (by omega), by omega, by omega⟩
  rw [show (fpChar v : Int) - k - 70 = fpChar v - 70 - k by ring, mul_pow16_shift, abs_fpNumber]

/-! ## Exact results -/

theorem truncates_product {v w : Word} (hv : fpFrac v ≠ 0) (hw : fpFrac w ≠ 0) {m n z : Int × Nat}
    (hm : prenorm (fpChar v) (fpFrac v) = m) (hn : prenorm (fpChar w) (fpFrac w) = n)
    (hz : normalizeFrac (16 ^ 11) 1 (m.1 + n.1 - 64) (m.2 * n.2) = z) :
    ({ neg := v.msb ^^ w.msb, char := z.1, frac := z.2 / 16 ^ 6 } : FpParts).Truncates (fpNumber v * fpNumber w) := by
  obtain ⟨c, f, hcf, hfv, hf5, hf6, hc0, hc1⟩ := exists_prenorm hv
  obtain ⟨d, g, hdg, hgw, hg5, hg6, hd0, hd1⟩ := exists_prenorm hw
  obtain rfl : (c, f) = m := hcf.symm.trans hm
  obtain rfl : (d, g) = n := hdg.symm.trans hn
  have hlow : 16 ^ 5 * 16 ^ 5 ≤ f * g := Nat.mul_le_mul hf5 hg5
  have hhigh : f * g < 16 ^ 6 * 16 ^ 6 := Nat.mul_lt_mul'' hf6 hg6
  obtain ⟨k, hk, hfuel, hge, hless⟩ :=
    normalizeFrac_eq (bound := 16 ^ 11) (fuel := 1) (f := f * g) (c + d - 64) (by omega)
  obtain rfl := hk.symm.trans hz
  have hless := hless (by omega)
  have hx : fpNumber v * fpNumber w = signFactor (v.msb ^^ w.msb) * ((f * g : Nat) * pow16 (c + d - 140)) := by
    rw [fpNumber_eq_sign v, fpNumber_eq_sign w, hfv, hgw, signFactor_xor, Nat.cast_mul,
      show c + d - 140 = (c - 70) + (d - 70) by ring, pow16_add]
    ring
  have hpos : (0 : Rat) < (f * g : Nat) * pow16 (c + d - 140) := mul_pos (Nat.cast_pos.2 (by omega)) (pow16_pos _)
  refine ⟨cutsOff_of_div (M := f * g * 16 ^ k) (j := 6) (e := c + d - 140 - k) ?_ rfl ?_ (sign_of_signFactor hx hpos),
    ?_, ?_, ?_, ?_⟩
  · rw [mul_pow16_shift, abs_of_signFactor hx hpos]
  all_goals dsimp only; omega

/-- The parts of a quotient of two fractions of six digits, `j` more digits of the dividend taken along. -/
theorem truncates_quotient {v w : Word} {c d : Int} {f g j : Nat} (hfv : |fpNumber v| = f * pow16 (c - 70))
    (hgw : |fpNumber w| = g * pow16 (d - 70)) (hg : 0 < g) (hlow : 16 ^ 5 * g ≤ f * 16 ^ j) (hhigh : f * 16 ^ j < 16 ^ 6 * g)
    (hc : -128 ≤ c - d - j + 70) (hc' : c - d - j + 70 < 256) :
    ({ neg := v.msb ^^ w.msb, char := c - d - j + 70, frac := f * 16 ^ j / g } : FpParts).Truncates
      (fpNumber v / fpNumber w) := by
  have hf : 0 < f := Nat.pos_of_ne_zero fun h => by
    rw [h, Nat.zero_mul] at hlow
    omega
  have hgpos : (0 : Rat) < g := Nat.cast_pos.2 hg
  have hx : fpNumber v / fpNumber w = signFactor (v.msb ^^ w.msb) * (f / g * pow16 (c - d)) := by
    rw [fpNumber_eq_sign v, fpNumber_eq_sign w, hfv, hgw, ← signFactor_div, mul_div_mul_comm, mul_div_mul_comm,
      show c - d = c - 70 - (d - 70) by ring, pow16_sub (c - 70)]
  have hpos : 0 < (f / g : Rat) * pow16 (c - d) := mul_pos (div_pos (Nat.cast_pos.2 hf) hgpos) (pow16_pos _)
  refine ⟨cutsOff_of_quotient (K := f * 16 ^ j) (e := c - d - j) ?_ hg rfl rfl (sign_of_signFactor hx hpos),
    (Nat.le_div_iff_mul_le hg).2 hlow, (Nat.div_lt_iff_lt_mul hg).2 hhigh, hc, hc'⟩
  rw [mul_pow16_shift, abs_of_signFactor hx hpos, mul_right_comm, div_mul_cancel₀ _ hgpos.ne']

theorem truncates_half {w : Word} (hw : fpFrac w ≠ 0) {z : Int × Nat}
    (hz : normalizeFrac (16 ^ 6) 7 (fpChar w) (fpFrac w * 8) = z) :
    ({ neg := w.msb, char := z.1, frac := z.2 / 16 } : FpParts).Truncates (fpNumber w / 2) := by
  have hlt := fpFrac_lt w
  have hchar := fpChar_lt w
  obtain ⟨k, hk, hfuel, hge, hless⟩ :=
    normalizeFrac_eq (bound := 16 ^ 6) (fuel := 7) (f := fpFrac w * 8) (fpChar w) (by omega)
  obtain rfl := hk.symm.trans hz
  have hless := hless (by omega)
  have hx : fpNumber w / 2 = signFactor w.msb * ((fpFrac w * 8 : Nat) * pow16 (fpChar w - 71)) := by
    rw [fpNumber_eq, show (fpChar w : Int) - 70 = fpChar w - 71 + 1 by ring, pow16_add, Nat.cast_mul]
    norm_num [pow16]
    ring
  have hpos : (0 : Rat) < (fpFrac w * 8 : Nat) * pow16 (fpChar w - 71) :=
    mul_pos (Nat.cast_pos.2 (by omega)) (pow16_pos _)
  refine ⟨cutsOff_of_div (M := fpFrac w * 8 * 16 ^ k) (j := 1) (e := fpChar w - 71 - k) ?_ (by rw [pow_one]) ?_
    (sign_of_signFactor hx hpos), ?_, ?_, ?_, ?_⟩
  · rw [mul_pow16_shift, abs_of_signFactor hx hpos]
  all_goals dsimp only; omega

/-! ## Results -/

section
variable {i : Instr} {s : State} {r : Reg} (hr : fpReg r = true)
include hr

/-- The end of a multiplication, division or halving whose exact result is not zero. -/
theorem endsFp_finish {p : FpParts} {x : Rat} (he : exec i s = fpFinish r p s) (hp : p.Truncates x) :
    EndsFp i s x (fun z => FprResult s r z s.psw.cc) ∧ (x = 0 → Completes i s (FprResult s r 0#32 s.psw.cc)) := by
  refine ⟨hp.endsFp (put := fun z => s.setFp r z) he (fprResult_setFp s hr), fun hx => ?_⟩
  have := (hp.cuts.range hp.digit hp.frac_lt).1
  rw [hx, abs_zero] at this
  exact absurd this (pow16_pos _).not_ge

/-- The end of one that is zero (R423). -/
theorem endsFp_trueZero {x : Rat} (he : exec i s = .next (s.setFp r trueZero)) (hx : x = 0) :
    EndsFp i s x (fun z => FprResult s r z s.psw.cc) ∧ (x = 0 → Completes i s (FprResult s r 0#32 s.psw.cc)) :=
  ⟨hx ▸ endsFp_zero i s _, fun _ => ⟨_, he, fprResult_setFp s hr _⟩⟩

/-- The end of a multiplication (R446). -/
theorem endsFp_multiply {v w : Word} (he : exec i s = fpMultiply r v w s) :
    EndsFp i s (fpNumber v * fpNumber w) (fun z => FprResult s r z s.psw.cc) ∧
    (fpNumber v * fpNumber w = 0 → Completes i s (FprResult s r 0#32 s.psw.cc)) := by
  rw [fpMultiply, fpUnpack_eq, fpUnpack_eq] at he
  by_cases hzero : fpFrac v = 0 ∨ fpFrac w = 0
  · refine endsFp_trueZero hr (he.trans (if_pos hzero)) ?_
    rwa [mul_eq_zero, fpNumber_eq_zero_iff, fpNumber_eq_zero_iff]
  · obtain ⟨hv, hw⟩ := not_or.1 hzero
    exact endsFp_finish hr (he.trans (if_neg hzero)) (truncates_product hv hw rfl rfl rfl)

/-- The end of a division by a number that is not zero (R448). -/
theorem endsFp_divide {v w : Word} (hw : fpNumber w ≠ 0) (he : exec i s = fpDivide r v w s) :
    EndsFp i s (fpNumber v / fpNumber w) (fun z => FprResult s r z s.psw.cc) ∧
    (fpNumber v / fpNumber w = 0 → Completes i s (FprResult s r 0#32 s.psw.cc)) := by
  have hw' : fpFrac w ≠ 0 := fun h => hw ((fpNumber_eq_zero_iff w).2 h)
  rw [fpDivide, fpUnpack_eq, fpUnpack_eq] at he
  replace he := he.trans (if_neg hw')
  by_cases hv : fpFrac v = 0
  · refine endsFp_trueZero hr (he.trans (if_pos hv)) ?_
    rw [(fpNumber_eq_zero_iff v).2 hv, zero_div]
  · obtain ⟨c, f, hcf, hfv, hf5, hf6, hc0, hc1⟩ := exists_prenorm hv
    obtain ⟨d, g, hdg, hgw, hg5, hg6, hd0, hd1⟩ := exists_prenorm hw'
    replace he := he.trans (if_neg hv)
    rw [hcf, hdg] at he
    by_cases hle : g ≤ f
    · refine endsFp_finish hr (he.trans (if_pos hle)) ?_
      have := truncates_quotient (j := 5) hfv hgw (by omega) (by omega) (by omega) (by omega) (by omega)
      rwa [show c - d - (5 : Nat) + 70 = c - d + 64 + 1 by push_cast; ring] at this
    · refine endsFp_finish hr (he.trans (if_neg hle)) ?_
      have := truncates_quotient (j := 6) hfv hgw (by omega) (by omega) (by omega) (by omega) (by omega)
      rwa [show c - d - (6 : Nat) + 70 = c - d + 64 by push_cast; ring] at this

/-- The end of a halving (R450). -/
theorem endsFp_halve {w : Word} (he : exec i s = fpHalve r w s) :
    EndsFp i s (fpNumber w / 2) (fun z => FprResult s r z s.psw.cc) ∧
    (fpNumber w / 2 = 0 → Completes i s (FprResult s r 0#32 s.psw.cc)) := by
  rw [fpHalve, fpUnpack_eq] at he
  by_cases hw : fpFrac w = 0
  · refine endsFp_trueZero hr (he.trans (if_pos hw)) ?_
    rw [(fpNumber_eq_zero_iff w).2 hw, zero_div]
  · exact endsFp_finish hr (he.trans (if_neg hw)) (truncates_half hw rfl)

end

/-- A divisor of zero suppresses the division (R493). -/
theorem fpDivide_zero {s : State} {r : Reg} {v w : Word} (h : fpNumber w = 0) : fpDivide r v w s = raise .floatDivide s := by
  rw [fpDivide, fpUnpack_eq, fpUnpack_eq]
  exact if_pos ((fpNumber_eq_zero_iff w).1 h)

/-- Settles O52: the exact result is an integer, or a quotient of integers, at a power of sixteen. -/
theorem multipliesAndDividesFloating : Obligations.MultipliesAndDividesFloating := by
  intro s r1 r2 x2 b2 d2 h1 h2 a v ends multiplies divides
  refine ⟨endsFp_multiply h1 (needFps_fp h1 h2 _),
    ⟨fun hw => endsFp_divide h1 hw (needFps_fp h1 h2 _), fun hw => (needFps_fp h1 h2 _).trans (fpDivide_zero hw)⟩,
    endsFp_halve h1 (needFps_fp h1 h2 _), fun hq hr => ?storage⟩
  case storage =>
    have hme : exec (.me r1 x2 b2 d2) s = fpMultiply r1 v (s.word a) s :=
      withWord_needFp hq hr h1 _ fun w t => fpMultiply r1 (t.fp r1) w t
    have hde : exec (.de r1 x2 b2 d2) s = fpDivide r1 v (s.word a) s :=
      withWord_needFp hq hr h1 _ fun w t => fpDivide r1 (t.fp r1) w t
    exact ⟨endsFp_multiply h1 hme, fun hw => endsFp_divide h1 hw hde, fun hw => hde.trans (fpDivide_zero hw)⟩

end Sys2Proof.Machine
end

section
/-! PROOFS.
The exceptions of storage operands (R70, R71) and of register numbers (R111, R422): each instruction begins with one check, of
which one lemma says what it leads to.
-/
namespace Sys2Proof.Machine

/-! ## Storage operands -/

/-- The instruction begins with the check of an operand that it reads; `spoil` is what an addressing exception leaves. -/
def ReadsOperand (i : Instr) (s : State) (a : Addr) (n align : Nat) (spoil : State → State) : Prop :=
  ∃ k, exec i s = afterLoad s a n align spoil k

theorem ReadsOperand.checked {i : Instr} {s : State} {a : Addr} {n align : Nat} {spoil : State → State}
    {left : State → Prop} (h : ReadsOperand i s a n align spoil) (hl : left (spoil s)) :
    (¬s.Installed a n → TrapsAfter .addressing i s left) ∧
    (s.Installed a n → a.toNat % align ≠ 0 → Suppressed .specification i s) := by
  obtain ⟨k, hk⟩ := h
  exact ⟨fun hi => ⟨_, hk.trans (afterLoad_addressing align hi spoil k), hl⟩,
    fun hi ha => hk.trans (afterLoad_specification hi ha spoil k)⟩

/-- The exceptions of a store that begins with its check all suppress it (R485). -/
theorem store_checked {i : Instr} {s : State} {a : Addr} {n align : Nat} {k : Result}
    (he : exec i s = afterStoreCheck s a n align k) :
    (¬s.Installed a n → Suppressed .addressing i s) ∧
    (s.Installed a n → a.toNat % align ≠ 0 → Suppressed .specification i s) ∧
    (s.Readable a n align → ¬s.Unprotected a n → Suppressed .protection i s) := by
  rcases afterStoreCheck_cases s a n align k with ⟨hw, _⟩ | ⟨hi, hk⟩ | ⟨hi, ha, hk⟩ | ⟨hr, hu, hk⟩
  · exact ⟨fun h => absurd hw.1.1 h, fun _ h => absurd hw.1.2 h, fun _ h => absurd hw.2 h⟩
  · exact ⟨fun _ => he.trans hk, fun h => absurd h hi, fun h => absurd h.1 hi⟩
  · exact ⟨fun h => absurd hi h, fun _ _ => he.trans hk, fun h => absurd h.2 ha⟩
  · exact ⟨fun h => absurd hr.1 h, fun _ h => absurd hr.2 h, fun _ _ => he.trans hk⟩

/-! ## What an addressing exception leaves -/

theorem sameGrBut_spoilReg (s : State) (r : Reg) : SameGrBut [r] s (spoilReg r s) := fun _ hq =>
  State.reg_setReg_ne s _ (by simpa using hq)

theorem sameGrBut_spoilPair (s : State) (r : Reg) : SameGrBut [r, oddOf r] s (spoilPair r s) := fun q hq => by
  obtain ⟨hr, ho⟩ := not_or.1 (by simpa using hq)
  exact (State.reg_setReg_ne _ _ ho).trans (State.reg_setReg_ne s _ hr)

theorem sameFpBut_spoilFp (s : State) (r : Reg) : SameFpBut r s (spoilFp r s) := fun q hq hne => by
  rw [spoilFp]
  split
  case isTrue hr => exact (State.fp_setFp s r q _ hr hq).trans (if_neg hne)
  case isFalse => rfl

theorem upper_spoilLo (s : State) (r : Reg) : ((spoilLo r s).reg r).extractLsb' 16 16 = (s.reg r).extractLsb' 16 16 := by
  show ((s.setLo r _).reg r).extractLsb' 16 16 = _
  rw [State.reg_setLo, if_pos rfl, BitVec.extractLsb'_append_eq_left]

theorem upper_spoilChar (s : State) (r : Reg) :
    ((spoilChar r s).reg r).extractLsb' 8 24 = (s.reg r).extractLsb' 8 24 := by
  show ((s.setReg r _).reg r).extractLsb' 8 24 = _
  rw [State.reg_setReg_self, BitVec.extractLsb'_append_eq_left]
  rfl

theorem sameGrBut_spoilLo (s : State) (r : Reg) : SameGrBut [r] s (spoilLo r s) := fun q hq => by
  have hne : q ≠ r := by simpa using hq
  exact (State.reg_setLo s r q _).trans (if_neg hne)

theorem sameGrBut_spoilChar (s : State) (r : Reg) : SameGrBut [r] s (spoilChar r s) := fun _ hq =>
  State.reg_setReg_ne s _ (by simpa using hq)

theorem spoilFp_eq (s : State) (r : Reg) :
    spoilFp r s = { s with fpr := (spoilFp r s).fpr, drawn := (spoilFp r s).drawn } := by
  rw [spoilFp]
  split
  · rfl
  · rfl

/-- A list of instructions that all begin with the same check. -/
theorem fetches_checked {is : List Instr} {s : State} {a : Addr} {n align : Nat} (spoil : State → State)
    {left : State → Prop} (hl : left (spoil s)) (h : ∀ i ∈ is, ReadsOperand i s a n align spoil) :
    ∀ i ∈ is, (¬s.Installed a n → TrapsAfter .addressing i s left) ∧
      (s.Installed a n → a.toNat % align ≠ 0 → Suppressed .specification i s) :=
  fun i hi => (h i hi).checked hl

/-- Settles O54: each instruction begins with the check of its operand, and an addressing exception leaves free values in its
destinations. -/
theorem storageOperandsAreChecked : Obligations.StorageOperandsAreChecked := by
  intro s r1 x2 b2 d2 i2 a a1 stores fetches inReg inLo inChar inPair inFp inCc andCc
  have leftReg : inReg (spoilReg r1 s) := ⟨sameGrBut_spoilReg s r1, rfl⟩
  have leftLo : inLo (spoilLo r1 s) := ⟨⟨sameGrBut_spoilLo s r1, rfl⟩, upper_spoilLo s r1⟩
  have leftChar : inChar (spoilChar r1 s) := ⟨⟨sameGrBut_spoilChar s r1, rfl⟩, upper_spoilChar s r1⟩
  have leftPair : inPair (spoilPair r1 s) := ⟨sameGrBut_spoilPair s r1, rfl⟩
  have leftFp : inFp (spoilFp r1 s) := ⟨sameFpBut_spoilFp s r1, spoilFp_eq s r1⟩
  have leftCc : inCc (spoilCc s) := rfl
  have leftRegCc : andCc inReg (spoilRegCc r1 s) := ⟨⟨leftReg.1, rfl⟩, rfl⟩
  have leftLoCc : andCc inLo (spoilLoCc r1 s) := ⟨⟨⟨leftLo.1.1, rfl⟩, leftLo.2⟩, rfl⟩
  have leftPairCc : andCc inPair (spoilPairCc r1 s) := ⟨⟨leftPair.1, rfl⟩, rfl⟩
  have leftFpCc : andCc inFp (spoilFpCc r1 s) := by
    rw [spoilFpCc, leftFp.2]
    exact ⟨⟨leftFp.1, rfl⟩, rfl⟩
  refine ⟨store_checked rfl, store_checked rfl, store_checked rfl, store_checked rfl, store_checked rfl, store_checked rfl,
    store_checked rfl, store_checked rfl, store_checked rfl, store_checked rfl,
    fetches_checked _ leftReg ?_, fetches_checked _ leftReg ?_, fetches_checked _ leftReg ?_, fetches_checked _ leftLo ?_,
    fetches_checked _ leftChar ?_, fetches_checked _ leftRegCc ?_, fetches_checked _ leftRegCc ?_,
    fetches_checked _ leftLoCc ?_, fetches_checked _ leftPair ?_, fetches_checked _ leftPair ?_,
    fetches_checked _ leftPairCc ?_, fetches_checked _ leftFp ?_, fetches_checked _ leftFpCc ?_,
    fetches_checked _ leftCc ?_, fetches_checked _ leftCc ?_, fetches_checked _ leftCc ?_, fetches_checked _ leftCc ?_⟩
  all_goals
    intro i hi
    fin_cases hi <;> exact ⟨_, rfl⟩

/-! ## Register numbers -/

theorem needEvens_odd {s : State} {r q : Reg} (h : evenReg r = false ∨ evenReg q = false) (k : Result) :
    needEvens s r q k = raise .specification s := by
  by_cases hr : evenReg r = true
  · rw [needEvens, needEven_even hr, needEven_odd (h.resolve_left (by simp [hr]))]
  · exact needEven_odd (by simpa using hr) _

theorem needFps_other {s : State} {r q : Reg} (h : fpReg r = false ∨ fpReg q = false) (k : Result) :
    needFps s r q k = raise .specification s := by
  by_cases hr : fpReg r = true
  · rw [needFps, needFp_fp hr, needFp_other (h.resolve_left (by simp [hr]))]
  · exact needFp_other (by simpa using hr) _

/-- Settles O55: the register numbers are checked first or, of an operand in storage, with what has been read. -/
theorem registerNumbersAreChecked : Obligations.RegisterNumbersAreChecked := by
  intro s r1 r2 x2 b2 d2 a suppressed
  refine ⟨fun h => ⟨?pairs, fun hq hr => ?pairWord, fun hq hr => ?pairDword, fun hw => ?std⟩, fun h => ?evens,
    fun h => ?fps, fun h => ⟨fun hq hr => ?fpWord, fun hw => ?ste⟩⟩
  case pairs =>
    intro i hi
    fin_cases hi <;> exact needEven_odd h _
  case pairWord =>
    intro i hi
    fin_cases hi <;> exact (withWord_quiet hq hr _ _).trans (needEven_odd h _)
  case pairDword =>
    intro i hi
    fin_cases hi <;> exact (withDword_quiet hq hr _ _).trans (needEven_odd h _)
  case std =>
    intro i hi
    fin_cases hi
    exact (afterStoreCheck_writable hw _).trans (needEven_odd h _)
  case evens =>
    intro i hi
    fin_cases hi <;> exact needEvens_odd h _
  case fps =>
    intro i hi
    fin_cases hi <;> exact needFps_other h _
  case fpWord =>
    intro i hi
    fin_cases hi <;> exact (withWord_quiet hq hr _ _).trans (needFp_other h _)
  case ste =>
    intro i hi
    fin_cases hi
    exact (afterStoreCheck_writable hw _).trans (needFp_other h _)

end Sys2Proof.Machine
end

section
/-! PROOFS.
The operator's functions (R552 to R556) and MEMORY CLEAR's storage.
-/
namespace Sys2Proof.Machine

/-! ## Storage from a byte on -/

theorem sparseGet_clearBelow (n a : Nat) (m : List (Nat × BitVec 8)) :
    sparseGet a (clearBelow n m) = if n ≤ a then sparseGet a m else 0#8 := by
  induction m with
  | nil => exact (ite_self _).symm
  | cons c m ih =>
    obtain ⟨b, v⟩ := c
    rw [clearBelow, List.filter_cons]
    by_cases hb : n ≤ b
    · rw [if_pos (by simpa using hb), sparseGet, sparseGet]
      by_cases he : b = a
      · rw [if_pos he, if_pos he, if_pos (he ▸ hb)]
      · rw [if_neg he, if_neg he]
        exact ih
    · rw [if_neg (by simpa using hb), sparseGet]
      by_cases he : b = a
      · rw [if_neg (he ▸ hb)]
        exact ih.trans (if_neg (he ▸ hb))
      · rw [if_neg he]
        exact ih

theorem halfAddr_toNat (h : BitVec 19) : (halfAddr h).toNat = 2 * h.toNat := by
  rw [halfAddr, BitVec.toNat_append]
  simp [Nat.shiftLeft_eq, Nat.mul_comm]

/-- A store of a halfword leaves every byte outside it. -/
theorem State.byte_setHalf_out (s : State) {a x : Addr} (v : Half) (h : ∀ k, k < 2 → x ≠ a + BitVec.ofNat 20 k) :
    (s.setHalf a v).byte x = s.byte x :=
  State.byte_setBytes_out s a x _ h

/-- A byte whose number is outside the two of a halfword is none of its bytes. -/
theorem ne_halfAddr {h : BitVec 19} {x : Addr} (hx : x.toNat < 2 * h.toNat ∨ 2 * h.toNat + 2 ≤ x.toNat) :
    ∀ k, k < 2 → x ≠ halfAddr h + BitVec.ofNat 20 k := by
  intro k hk e
  have hlt := h.isLt
  have : x.toNat = 2 * h.toNat + k := by
    rw [e, BitVec.toNat_add, halfAddr_toNat, BitVec.toNat_ofNat]
    omega
  omega

/-! ## Requests of the test support equipment -/

theorem State.request_operating {s : State} {w : Half} (p : Payload) (hm : s.mode = .operating) (hw : codeBit w 0 = true)
    (hb : s.chanBusy = false) (hk : s.pendKey = false) (hi : s.pendIo = none) : s.request w p = s.tseInOperation w := by
  have hpresent : s.canPresent p = true := by simp [State.canPresent, State.canTransfer, hb, hk, hi]
  rw [State.request, hm]
  simp only
  rw [if_pos hw, if_pos hpresent]

theorem State.request_softStop {s : State} {w : Half} (p : Payload) (hm : s.mode = .softStop) (hw : codeBit w 0 = true) :
    s.request w p = s.tseInSoftStop w p := by
  rw [State.request, hm]
  exact if_pos hw

/-- Settles O60: each code word selects its function. -/
theorem operatorFunctions : Obligations.OperatorFunctions := by
  intro s p r s' hwf hb hk hi
  have moved (w : Half) (he : s.env = .request w p :: r) : step s = s'.request w p := step_move hwf he
  have inOperation {w : Half} (hm : s.mode = .operating) (he : s.env = .request w p :: r) (hw : codeBit w 0 = true) :
      step s = s'.tseInOperation w := (moved w he).trans (State.request_operating p hm hw hb hk hi)
  have inSoftStop {w : Half} (hm : s.mode = .softStop) (he : s.env = .request w p :: r) (hw : codeBit w 0 = true) :
      step s = s'.tseInSoftStop w p := (moved w he).trans (State.request_softStop p hm hw)
  refine ⟨fun hm he => ?stop, fun hm he => ?key, fun hm he => ?start, fun hm he => ?restart,
    fun hm he => ⟨fun hf => ?clear, fun h w hf hin => ?clearError⟩⟩
  case stop => exact inOperation hm he rfl
  case key => exact inOperation hm he rfl
  case start => exact inSoftStop hm he rfl
  case restart => exact inSoftStop hm he rfl
  case clear =>
    have hclear : s'.memoryClear p.clearFails = { s' with mem := [], keys := [] } := by rw [hf]; rfl
    have hstep : step s = .next (s'.memoryClear p.clearFails) := inSoftStop hm he rfl
    rw [hclear] at hstep
    exact ⟨_, hstep, hm, fun _ => rfl, fun _ => rfl, rfl⟩
  case clearError =>
    have hstep : step s = .next (s'.memoryClear p.clearFails) := inSoftStop hm he rfl
    have hclear : s'.memoryClear p.clearFails =
        ({ s' with mem := clearBelow (halfAddr h).toNat s.mem }.setHalf (halfAddr h) w).hang := by
      rw [hf]
      exact if_pos ((State.availableN_iff s _ 2).2 hin)
    rw [hclear] at hstep
    have outside {x : Addr} (hx : x.toNat < 2 * h.toNat ∨ 2 * h.toNat + 2 ≤ x.toNat) :
        ({ s' with mem := clearBelow (halfAddr h).toNat s.mem }.setHalf (halfAddr h) w).hang.byte x =
          if 2 * h.toNat ≤ x.toNat then s.byte x else 0#8 := by
      refine (State.byte_setHalf_out _ w (ne_halfAddr hx)).trans ?_
      rw [← halfAddr_toNat]
      exact sparseGet_clearBelow _ _ _
    exact ⟨_, hstep, rfl, fun x hx => (outside (.inl hx)).trans (if_neg (by omega)), State.half_setHalf _ _ w,
      fun x hx => (outside (.inr hx)).trans (if_pos (by omega)), rfl⟩

end Sys2Proof.Machine
end

section
/-! PROOFS.
Direct memory access (R73, R517): a store at a boundary, and one that falls between the halfword accesses of an instruction
(D8).
-/
namespace Sys2Proof.Machine

/-! ## One access -/

/-- The block of the halfword numbered `h` lets DMA store, and it is installed (R73, R518). -/
def State.LetsDma (s : State) (h : BitVec 19) : Prop := s.Installed (halfAddr h) 2 ∧ s.dmaProtected (halfAddr h) = false

theorem State.dmaAccess_write {s : State} {h : BitVec 19} (w : Half) (ha : s.LetsDma h) :
    s.dmaAccess (.write h w) = s.setHalf (halfAddr h) w := by
  refine if_pos ?_
  rw [(State.availableN_iff s _ 2).2 ha.1, ha.2]
  rfl

theorem State.dmaAccess_write_refused {s : State} {h : BitVec 19} (w : Half) (ha : ¬s.LetsDma h) :
    s.dmaAccess (.write h w) = s := by
  refine if_neg fun hc => ha ?_
  rw [Bool.and_eq_true, State.availableN_iff, Bool.not_eq_true'] at hc
  exact hc

theorem State.dmaAccess_read {s : State} {h : BitVec 19} (hi : s.Installed (halfAddr h) 2) :
    s.dmaAccess (.read h) = { s with dmaOut := s.half (halfAddr h) :: s.dmaOut } :=
  if_pos ((State.availableN_iff s _ 2).2 hi)

theorem State.dmaAccess_read_refused {s : State} {h : BitVec 19} (hi : ¬s.Installed (halfAddr h) 2) :
    s.dmaAccess (.read h) = s :=
  if_neg fun hc => hi ((State.availableN_iff s _ 2).1 hc)

/-! ## Accesses at a boundary -/

theorem step_dma {s : State} {x : DmaAccess} {r : List Move} (hw : s.params.wf = true) (hm : s.mode ≠ .hung)
    (he : s.env = .dma x :: r) : step s = .next ({ s with env := r }.dmaAccess x) :=
  (step_move hw he).trans (congrArg _ (if_neg hm))

/-- A DMA store at a boundary reaches the halfword that lets it in, and nothing else. -/
theorem dmaStore_boundary {s : State} {h : BitVec 19} (w : Half) {r : List Move} (hw : s.params.wf = true)
    (hm : s.mode ≠ .hung) (he : s.env = .dma (.write h w) :: r) :
    ∃ t, step s = .next t ∧ SameStorageBut (halfAddr h) 2 s t ∧ t = { s with env := r, mem := t.mem } ∧
      (s.Installed (halfAddr h) 2 → s.dmaProtected (halfAddr h) = false → t.half (halfAddr h) = w) ∧
      (¬s.Installed (halfAddr h) 2 ∨ s.dmaProtected (halfAddr h) = true → t.mem = s.mem) := by
  refine ⟨_, step_dma hw hm he, ?_⟩
  by_cases ha : s.LetsDma h
  · rw [State.dmaAccess_write (s := { s with env := r }) w ha]
    refine ⟨fun x hx => State.byte_setHalf_out _ w hx, rfl, fun _ _ => State.half_setHalf _ _ w, ?_⟩
    rintro (hi | hp)
    · exact absurd ha.1 hi
    · exact absurd (ha.2.symm.trans hp) Bool.false_ne_true
  · rw [State.dmaAccess_write_refused (s := { s with env := r }) w ha]
    exact ⟨fun _ _ => rfl, rfl, fun hi hp => absurd ⟨hi, hp⟩ ha, fun _ => rfl⟩

/-- A DMA read at a boundary changes no storage. -/
theorem dmaRead_boundary {s : State} {h : BitVec 19} {r : List Move} (hw : s.params.wf = true) (hm : s.mode ≠ .hung)
    (he : s.env = .dma (.read h) :: r) :
    ∃ t, step s = .next t ∧ t = { s with env := r, dmaOut := t.dmaOut } ∧
      (s.Installed (halfAddr h) 2 → t.dmaOut = s.half (halfAddr h) :: s.dmaOut) ∧
      (¬s.Installed (halfAddr h) 2 → t.dmaOut = s.dmaOut) := by
  refine ⟨_, step_dma hw hm he, ?_⟩
  by_cases hi : s.Installed (halfAddr h) 2
  · rw [State.dmaAccess_read (s := { s with env := r }) hi]
    exact ⟨rfl, fun _ => rfl, fun hn => absurd hi hn⟩
  · rw [State.dmaAccess_read_refused (s := { s with env := r }) hi]
    exact ⟨rfl, fun hn => absurd hn hi, fun _ => rfl⟩

/-! ## An access inside an instruction -/

/-- The state after the one DMA store to come. -/
def State.afterDma (s : State) (h : BitVec 19) (w : Half) : State := { s with dma := [] }.setHalf (halfAddr h) w

theorem State.afterDma_half (s : State) (h : BitVec 19) (w : Half) : (s.afterDma h w).half (halfAddr h) = w :=
  State.half_setHalf _ _ w

theorem State.afterDma_byte_out (s : State) {h : BitVec 19} (w : Half) {x : Addr}
    (hx : ∀ k, k < 2 → x ≠ halfAddr h + BitVec.ofNat 20 k) : (s.afterDma h w).byte x = s.byte x :=
  State.byte_setHalf_out _ w hx

theorem State.access_afterDma {s : State} {h : BitVec 19} {w : Half} (hd : s.dma = [[.write h w]]) (ha : s.LetsDma h) :
    s.access = s.afterDma h w := by
  rw [State.access, hd]
  exact State.dmaAccess_write (s := { s with dma := [] }) w ha

theorem State.access_empty {s : State} {r : List (List DmaAccess)} (hd : s.dma = [] :: r) :
    s.access = { s with dma := r } := by
  rw [State.access, hd]
  rfl

/-- A word is read with the DMA store between its halfwords. -/
theorem State.readWord_dma {s : State} {h : BitVec 19} {w : Half} (hd : s.dma = [[], [.write h w]]) (ha : s.LetsDma h)
    (a : Addr) : s.readWord a = (s.half a ++ (s.afterDma h w).half (a + 2#20), s.afterDma h w) := by
  rw [State.readWord, State.readHalf, State.access_empty hd, State.readHalf,
    State.access_afterDma (s := { s with dma := [[.write h w]] }) rfl ha]
  rfl

/-- A byte is read and stored with the DMA store in between. -/
theorem State.readByte_writeByte_dma {s : State} {h : BitVec 19} {w : Half} (hd : s.dma = [[], [.write h w]])
    (ha : s.LetsDma h) (a : Addr) (v : Byte) :
    (s.readByte a).1 = s.byte a ∧ (s.readByte a).2.writeByte a v = (s.afterDma h w).setByte a v := by
  rw [State.readByte, State.access_empty hd]
  refine ⟨rfl, ?_⟩
  rw [State.writeByte, State.access_afterDma (s := { s with dma := [[.write h w]] }) rfl ha]
  rfl

/-- The bytes of a DMA store. -/
theorem State.afterDma_byte_first (s : State) (h : BitVec 19) (w : Half) :
    (s.afterDma h w).byte (halfAddr h) = slice w 0 8 := by
  have := State.byte_setBytes_in { s with dma := [] } (halfAddr h) (bytesOfHalf w) (show 2 ≤ 2 ^ 20 by omega) 0
    (show 0 < 2 by omega)
  rwa [BitVec.add_zero] at this

theorem State.afterDma_byte_second (s : State) (h : BitVec 19) (w : Half) :
    (s.afterDma h w).byte (halfAddr h + 1#20) = slice w 8 8 :=
  State.byte_setBytes_in { s with dma := [] } (halfAddr h) (bytesOfHalf w) (show 2 ≤ 2 ^ 20 by omega) 1
    (show 1 < 2 by omega)

theorem State.afterDma_storage (s : State) (h : BitVec 19) (w : Half) : SameStorageBut (halfAddr h) 2 s (s.afterDma h w) :=
  fun _ hx => State.afterDma_byte_out s w hx

/-- The halfword after that of the DMA store. -/
theorem State.afterDma_half_second (s : State) {a : Addr} {h : BitVec 19} (w : Half) (hh : halfAddr h = a) :
    (s.afterDma h w).half (a + 2#20) = s.half (a + 2#20) := by
  subst hh
  refine State.half_congr (State.afterDma_byte_out s w fun k hk => ?_) (State.afterDma_byte_out s w fun k hk => ?_)
  · exact addr_ofNat_ne (j := 2) (by omega) (by omega) (by omega)
  · rw [BitVec.add_assoc]
    exact addr_ofNat_ne (j := 3) (by omega) (by omega) (by omega)

/-- The second halfword of a word lies in the block of the first. -/
theorem State.Readable.letsDma_second {s : State} {a : Addr} {h : BitVec 19} (hr : s.Readable a 4 4)
    (hk : (s.key (a.toNat / 1024)).getLsbD 0 = false) (hh : halfAddr h = a + 2#20) : s.LetsDma h := by
  obtain ⟨hi, halign⟩ := hr
  have hblock : (a + 2#20).toNat / 1024 = a.toNat / 1024 := by
    have := a.isLt
    rw [BitVec.toNat_add, BitVec.toNat_ofNat]
    omega
  refine ⟨fun k hk2 => ?_, ?_⟩
  · rw [hh, show a + 2#20 + BitVec.ofNat 20 k = a + BitVec.ofNat 20 (2 + k) by rw [BitVec.add_assoc, BitVec.ofNat_add]]
    exact hi (2 + k) (by omega)
  · rw [hh, State.dmaProtected, blockOf, hblock]
    exact hk

theorem State.Installed.letsDma {s : State} {a : Addr} {h : BitVec 19} (hi : s.Installed a 2)
    (hk : (s.key (a.toNat / 1024)).getLsbD 0 = false) (hh : halfAddr h = a) : s.LetsDma h := by
  subst hh
  exact ⟨hi, hk⟩

/-- What L does with a DMA store between its two accesses. -/
theorem exec_l_dma {s : State} {h : BitVec 19} {w : Half} {r1 x2 b2 : Reg} {d2 : Disp}
    (hd : s.dma = [[], [.write h w]]) (hr : s.Readable (s.eax x2 b2 d2) 4 4) (ha : s.LetsDma h) :
    exec (.l r1 x2 b2 d2) s = .next ((s.afterDma h w).setReg r1
      (s.half (s.eax x2 b2 d2) ++ (s.afterDma h w).half (s.eax x2 b2 d2 + 2#20))) := by
  refine (afterLoad_readable hr _ _).trans ?_
  rw [State.readWord_dma hd ha]
  rfl

/-- What NI does with a DMA store between its fetch and its store. -/
theorem exec_ni_dma {s : State} {h : BitVec 19} {w : Half} {b2 : Reg} {d2 : Disp} {i2 : Byte}
    (hd : s.dma = [[], [.write h w]]) (hw : s.Writable (s.ea b2 d2) 1 1) (ha : s.LetsDma h) :
    exec (.ni i2 b2 d2) s = .next (((s.afterDma h w).setByte (s.ea b2 d2) (s.byte (s.ea b2 d2) &&& i2)).setCc
      (ccZero (s.byte (s.ea b2 d2) &&& i2))) := by
  obtain ⟨hread, hwrite⟩ := State.readByte_writeByte_dma hd ha (s.ea b2 d2) (s.byte (s.ea b2 d2) &&& i2)
  refine (afterStoreCheck_writable hw _).trans ?_
  simp only [hread, hwrite]

/-- What TS does with a DMA store before its one access. -/
theorem exec_ts_dma {s : State} {h : BitVec 19} {w : Half} {b2 : Reg} {d2 : Disp} (hd : s.dma = [[.write h w]])
    (hw : s.Writable (s.ea b2 d2) 1 1) (ha : s.LetsDma h) :
    exec (.ts b2 d2) s = .next (((s.afterDma h w).setByte (s.ea b2 d2) 0xFF#8).setCc
      (if ((s.afterDma h w).byte (s.ea b2 d2)).msb then 1 else 0)) := by
  show execTs b2 d2 s = _
  simp only [execTs, (State.storeError_none s _ 1 1).2 hw, State.readByte, State.access_afterDma hd ha]

/-- A byte stored after the DMA store, into its first byte. -/
theorem State.afterDma_setByte (s : State) (h : BitVec 19) (w : Half) (v : Byte) :
    ((s.afterDma h w).setByte (halfAddr h) v).byte (halfAddr h) = v ∧
    ((s.afterDma h w).setByte (halfAddr h) v).byte (halfAddr h + 1#20) = w.extractLsb' 0 8 ∧
    SameStorageBut (halfAddr h) 2 s ((s.afterDma h w).setByte (halfAddr h) v) := by
  refine ⟨?_, ?_, fun x hx => ?_⟩
  · rw [State.byte_setByte, if_pos rfl]
  · rw [State.byte_setByte, if_neg (by simp), State.afterDma_byte_second]
    rfl
  · have hne : x ≠ halfAddr h := by simpa using hx 0 (by omega)
    rw [State.byte_setByte, if_neg hne, State.afterDma_byte_out s w hx]

/-- The result of a byte instruction that ends in the storage of `u`. -/
theorem dmaByteResult {s u : State} {c : Addr} {v b : Byte} (cc : Cc) (hu : ∃ m, u = { s with mem := m, dma := [] })
    (h0 : u.byte c = v) (h1 : u.byte (c + 1#20) = b) (hout : SameStorageBut c 2 s u) :
    (u.setCc cc).byte c = v ∧ (u.setCc cc).byte (c + 1#20) = b ∧ (u.setCc cc).psw.cc = cc ∧
    SameGrBut [] s (u.setCc cc) ∧ SameStorageBut c 2 s (u.setCc cc) ∧
    u.setCc cc = { s with gr := (u.setCc cc).gr, psw := { s.psw with cc := (u.setCc cc).psw.cc }
                          mem := (u.setCc cc).mem, dma := [] } := by
  obtain ⟨m, rfl⟩ := hu
  exact ⟨h0, h1, rfl, fun _ _ => rfl, hout, rfl⟩

theorem msb_slice_left (w : Half) : (slice w 0 8 : Byte).msb = w.msb := by
  rw [BitVec.msb_eq_getLsbD_last, BitVec.msb_eq_getLsbD_last, slice, BitVec.getLsbD_extractLsb']
  rfl

/-- Settles O59: a DMA store is one store of a halfword, at its moment. -/
theorem dmaObeysItsOwnKey : Obligations.DmaObeysItsOwnKey := by
  refine ⟨?boundary, ?inside⟩
  case boundary =>
    intro s h w r a hw hm
    exact ⟨fun he => dmaStore_boundary w hw hm he, fun he => dmaRead_boundary hw hm he⟩
  intro s h w r1 x2 b2 d2 i2 a c dmaFrame
  refine ⟨fun hd hr hk => ⟨fun hh => ?second, fun hh => ?first⟩, fun hd hi hu hk hh => ?ni, fun hd hi hu hk hh => ?ts⟩
  case second =>
    refine ⟨_, exec_l_dma hd hr (hr.letsDma_second hk hh), ?_⟩
    have hw : (s.afterDma h w).half (a + 2#20) = w := hh ▸ State.afterDma_half s h w
    refine ⟨?_, hw, rfl, fun q hq => State.reg_setReg_ne _ _ (by simpa using hq), hh ▸ State.afterDma_storage s h w, rfl⟩
    rw [State.reg_setReg_self, hw]
  case first =>
    refine ⟨_, exec_l_dma hd hr ((hr.1.mono (by omega)).letsDma hk hh), ?_⟩
    refine ⟨?_, hh ▸ State.afterDma_half s h w, rfl, fun q hq => State.reg_setReg_ne _ _ (by simpa using hq),
      hh ▸ State.afterDma_storage s h w, rfl⟩
    rw [State.reg_setReg_self, State.afterDma_half_second s w hh, State.word]
  case ni =>
    refine ⟨_, exec_ni_dma hd ⟨⟨hi.mono (by omega), Nat.mod_one _⟩, hu⟩ (hi.letsDma hk hh), ?_⟩
    obtain ⟨h0, h1, hout⟩ := State.afterDma_setByte s h w (s.byte c &&& i2)
    rw [show halfAddr h = c from hh] at h0 h1 hout
    exact dmaByteResult _ ⟨_, rfl⟩ h0 h1 hout
  case ts =>
    refine ⟨_, exec_ts_dma hd ⟨⟨hi.mono (by omega), Nat.mod_one _⟩, hu⟩ (hi.letsDma hk hh), ?_⟩
    obtain ⟨h0, h1, hout⟩ := State.afterDma_setByte s h w 0xFF#8
    have hfirst := State.afterDma_byte_first s h w
    rw [show halfAddr h = c from hh] at h0 h1 hout hfirst
    rw [hfirst, msb_slice_left]
    exact dmaByteResult _ ⟨_, rfl⟩ h0 h1 hout

end Sys2Proof.Machine
end

section
/-! PROOFS.
A buffered transfer of one halfword (R525 to R529): the fields of the device's table entry, the move, and the stores into the
entry and the status word, in fields that do not overlap.
-/
namespace Sys2Proof.Machine

/-! ## Fields that do not overlap -/

/-- `m` bytes from `a` on and `n` bytes from `b` on have none in common. -/
def Apart (a : Addr) (m : Nat) (b : Addr) (n : Nat) : Prop :=
  ∀ j k, j < m → k < n → a + BitVec.ofNat 20 j ≠ b + BitVec.ofNat 20 k

theorem Apart.symm {a b : Addr} {m n : Nat} (h : Apart a m b n) : Apart b n a m := fun j k hj hk => (h k j hk hj).symm

/-- Part of a field. -/
theorem Apart.part {a b : Addr} {m n : Nat} (h : Apart a m b n) (i : Nat) {l : Nat} (hi : i + l ≤ m) :
    Apart (a + BitVec.ofNat 20 i) l b n := by
  intro j k hj hk
  rw [BitVec.add_assoc, ← BitVec.ofNat_add]
  exact h (i + j) k (by omega) hk

theorem Apart.mono {a b : Addr} {l m n : Nat} (h : Apart a m b n) (hl : l ≤ m) : Apart a l b n :=
  fun j k hj hk => h j k (by omega) hk

/-- Two halfwords one after the other. -/
theorem apart_next (a : Addr) : Apart a 2 (a + 2#20) 2 := by
  intro j k hj hk
  rw [BitVec.add_assoc, ← BitVec.ofNat_add]
  exact addr_ofNat_ne (by omega) (by omega) (by omega)

/-- A store of a halfword leaves a halfword apart from it. -/
theorem State.half_setHalf_apart (s : State) {a b : Addr} (v : Half) (h : Apart a 2 b 2) :
    (s.setHalf b v).half a = s.half a := by
  refine State.half_congr (State.byte_setHalf_out s v fun k hk => ?_) (State.byte_setHalf_out s v fun k hk => ?_)
  · simpa using h 0 k (by omega) hk
  · exact h 1 k (by omega) hk

/-! ## The update of the table entry -/

/-- What the update of a table entry leaves (R526, R529): `t` is `u` after it. -/
structure TableCounted (u : State) (d : BitVec 4) (al cl : Addr) (addr count : Half) (t : State) : Prop where
  addr_half : t.half al = addr + 2#16
  count_half : t.half cl = count - 1#16
  status_half : t.half 66 = 0#16
  half_eq : ∀ a, Apart a 2 al 2 → Apart a 2 cl 2 → Apart a 2 66 2 → t.half a = u.half a
  byte_eq : ∀ x : Addr, (∀ k, k < 2 → x ≠ al + BitVec.ofNat 20 k) → (∀ k, k < 2 → x ≠ cl + BitVec.ofNat 20 k) →
    (∀ k, k < 2 → x ≠ 66 + BitVec.ofNat 20 k) → t.byte x = u.byte x
  frame : t = { u with mem := t.mem, outbox := t.outbox }
  outbox_eq : t.outbox = if count = 1#16 then .zeroCount d :: u.outbox else u.outbox

/-- A state to which a signal is sent, or not. -/
theorem ite_send (c : Prop) [Decidable c] (x : State) (z : Sent) :
    (if c then x.send z else x) = { x with outbox := if c then z :: x.outbox else x.outbox } := by
  split
  · rfl
  · rfl

theorem State.setHalf_mem (s : State) (a : Addr) (v : Half) : ∃ m, s.setHalf a v = { s with mem := m } := ⟨_, rfl⟩

/-- The update as three stores, the last one after the signal. -/
theorem State.countTable_quiet {u x y : State} (hq : u.dma = []) {d : BitVec 4} {al cl : Addr} {addr count : Half}
    (hx : u.setHalf cl (count - 1#16) = x) (hy : x.setHalf al (addr + 2#16) = y) :
    u.countTable d al cl addr count =
      { y with outbox := if count = 1#16 then .zeroCount d :: u.outbox else u.outbox }.setHalf 66 0#16 := by
  have hxq : x.dma = [] := by rw [← hx, State.setHalf_dma, hq]
  have hyq : y.dma = [] := by rw [← hy, State.setHalf_dma, hxq]
  have hout : y.outbox = u.outbox := by rw [← hy, State.setHalf_outbox, ← hx, State.setHalf_outbox]
  rw [State.countTable, State.writeHalf_quiet hq, hx, State.writeHalf_quiet hxq, hy, ite_send, hout]
  exact State.writeHalf_quiet (by exact hyq) 66 0#16

theorem tableCounted {u : State} (hq : u.dma = []) (d : BitVec 4) {al cl : Addr} (addr count : Half)
    (hac : Apart al 2 cl 2) (ha : Apart al 2 66 2) (hc : Apart cl 2 66 2) :
    TableCounted u d al cl addr count (u.countTable d al cl addr count) := by
  generalize hx : u.setHalf cl (count - 1#16) = x
  generalize hy : x.setHalf al (addr + 2#16) = y
  rw [State.countTable_quiet hq hx hy]
  generalize ho : (if count = 1#16 then Sent.zeroCount d :: u.outbox else u.outbox) = o
  refine ⟨?_, ?_, State.half_setHalf _ _ _, fun b h1 h2 h3 => ?_, fun b h1 h2 h3 => ?_, ?_, ?_⟩
  · refine (State.half_setHalf_apart _ _ ha).trans ?_
    exact hy ▸ State.half_setHalf x al _
  · refine (State.half_setHalf_apart _ _ hc).trans ?_
    exact (hy ▸ State.half_setHalf_apart x _ hac.symm).trans (hx ▸ State.half_setHalf u cl _)
  · refine (State.half_setHalf_apart _ _ h3).trans ?_
    exact (hy ▸ State.half_setHalf_apart x _ h1).trans (hx ▸ State.half_setHalf_apart u _ h2)
  · refine (State.byte_setHalf_out _ _ h3).trans ?_
    exact (hy ▸ State.byte_setHalf_out x _ h1).trans (hx ▸ State.byte_setHalf_out u _ h2)
  · obtain ⟨m, hm⟩ := State.setHalf_mem u cl (count - 1#16)
    obtain ⟨n, hn⟩ := State.setHalf_mem x al (addr + 2#16)
    obtain rfl := hx.symm.trans hm
    obtain rfl := hy.symm.trans hn
    rfl
  · exact (State.setHalf_outbox _ _ _).trans ho.symm

/-! ## The request -/

theorem State.entryLocs_input {s : State} (hl : s.params.layout = Params.standard.layout) (e : Addr) :
    s.entryAddrLoc e true = e ∧ s.entryCountLoc e true = e + 2#20 := by
  rw [State.entryAddrLoc, State.entryCountLoc, hl]
  exact ⟨BitVec.add_zero e, rfl⟩

theorem State.entryLocs_output {s : State} (hl : s.params.layout = Params.standard.layout) (e : Addr) :
    s.entryAddrLoc e false = e + 4#20 ∧ s.entryCountLoc e false = e + 6#20 := by
  rw [State.entryAddrLoc, State.entryCountLoc, hl]
  exact ⟨rfl, rfl⟩

/-- A code word for a buffered transfer (R501, R521). -/
theorem State.request_buffered {s : State} {w : Half} (p : Payload) (hm : s.mode = .operating) (hb : s.chanBusy = false)
    (h0 : w.getLsbD 15 = false) (h2 : w.getLsbD 13 = false) (h12 : w.extractLsb' 0 4 ≠ 0#4) :
    s.request w p = s.buffered (w.extractLsb' 4 4) (w.getLsbD 14) p := by
  have hcan : s.canTransfer p = true := by rw [State.canTransfer, hb]; rfl
  have herr : ¬(w = 0x1000#16 ∨ w = 0x0800#16) := by
    rintro (rfl | rfl)
    · exact h12 rfl
    · exact h12 rfl
  have hdirect : codeBit w 0 = false := h0
  have hkind : (!codeBit w 2) = true := by rw [codeBit, h2]; rfl
  have htag : slice w 12 4 ≠ 0#4 := h12
  rw [State.request, hm]
  simp only
  rw [if_neg (by rw [hdirect]; decide), State.deviceRequest, if_neg (by rw [hcan]; decide), if_neg herr, if_neg htag,
    if_pos hkind]
  rfl

/-- The table entry of a buffered transfer, where no burst is under way and DMA does nothing in between. -/
theorem State.buffered_quiet {s : State} {d : BitVec 4} {input : Bool} {p : Payload} {e : Addr} (hq : s.dma = [])
    (hb : s.burst = none) (he : entryLoc (s.word 72) d = e) (hi : s.Installed e 8) :
    s.buffered d input p =
      if s.half (s.entryCountLoc e input) = 0#16 then .next (s.zeroCountRequest d)
      else s.transferHalf d e input (s.half (s.entryAddrLoc e input)) (s.half (s.entryCountLoc e input)) p := by
  have hread : s.readWord cawLoc = (s.word 72, s) := State.readWord_quiet hq _
  have havail : ¬((!s.availableN e 8) = true) := by
    rw [(State.availableN_iff s e 8).2 hi]
    decide
  have hfields : s.bufferedFields d e input =
      (s.half (s.entryAddrLoc e input), s.half (s.entryCountLoc e input), s) := by
    rw [State.bufferedFields, hb]
    simp only [State.tableFields, State.readHalf_quiet hq]
  simp only [State.buffered, hread, he]
  rw [if_neg havail, hfields]

/-- A transfer that meets no error: the status word holds the data address meanwhile, and the entry is counted. -/
theorem State.transferHalf_counts {s : State} {d : BitVec 4} {e : Addr} {input : Bool} {addr count : Half} {p : Payload}
    (hq : s.dma = []) (hr : s.Readable (addr.setWidth 20) 2 2) (hu : input = true → s.cpuProtected (addr.setWidth 20) = false)
    (hf : p.fails = false) (hc : count.msb = false) :
    s.transferHalf d e input addr count p =
      .next (((s.setHalf 66 addr).moveHalf d input (addr.setWidth 20) p.data).countTable d (s.entryAddrLoc e input)
        (s.entryCountLoc e input) addr count) := by
  have havail : ¬((!s.availableN (addr.setWidth 20) 2) = true) := by
    rw [(State.availableN_iff s _ 2).2 hr.1]
    decide
  have heven : ¬((addr.setWidth 20 : Addr).getLsbD 0 = true) := by
    rw [getLsbD_zero_of_mod (align := 1) hr.2]
    decide
  have hprot : ¬((input && s.cpuProtected (addr.setWidth 20)) = true) := by
    rw [Bool.and_eq_true]
    rintro ⟨hin, hp⟩
    exact Bool.false_ne_true ((hu hin).symm.trans hp)
  have hfails : ¬(p.fails = true) := by rw [hf]; decide
  have hcount : ¬(count.msb = true) := by rw [hc]; decide
  have hstore : s.writeHalf statusLoc addr = s.setHalf 66 addr := State.writeHalf_quiet hq _ _
  simp only [State.transferHalf, hstore]
  rw [if_neg havail, if_neg heven, if_neg hprot, if_neg hfails, if_neg hcount]

theorem msb_of_one_le {v : Half} (h : 1 ≤ v.toInt) : v.msb = false ∧ v ≠ 0#16 := by
  refine ⟨?_, fun h0 => ?_⟩
  · rw [BitVec.msb_eq_toInt]
    exact decide_eq_false (by omega)
  · rw [h0] at h
    exact absurd h (by decide)

/-- The code word of a zero count names the device (R528). -/
theorem zeroCountCode_device (d : BitVec 4) (v : BitVec 64) :
    (zeroCountCode d v).extractLsb' 4 4 = d ∧ (zeroCountCode d v).getLsbD 14 = false := by
  have hmask (k : Nat) (hk : k < 4) : (0xBF0F#16).getLsbD (4 + k) = false := by
    interval_cases k <;> rfl
  refine ⟨?_, ?_⟩
  · apply BitVec.eq_of_getLsbD_eq
    intro k hk
    rw [BitVec.getLsbD_extractLsb', zeroCountCode, BitVec.getLsbD_or, BitVec.getLsbD_and, hmask k hk,
      BitVec.getLsbD_shiftLeft, BitVec.getLsbD_setWidth]
    simp [hk, show 4 + k < 16 by omega, show k < 16 by omega]
  · rw [zeroCountCode, BitVec.getLsbD_or, BitVec.getLsbD_and, BitVec.getLsbD_shiftLeft, BitVec.getLsbD_setWidth]
    simp

/-! ## The transfer -/

/-- The storage of an entry's two fields, the address field at `al` before the count field. -/
theorem tableCounted_next {u : State} (hq : u.dma = []) (d : BitVec 4) {al : Addr} (addr count : Half)
    (h : Apart al 4 66 2) :
    TableCounted u d al (al + 2#20) addr count (u.countTable d al (al + 2#20) addr count) :=
  tableCounted hq d addr count (apart_next al) (h.mono (by omega)) (h.part 2 (by omega))

/-- A byte outside the two fields of an entry is outside each. -/
theorem outside_fields {x al : Addr} (h : ∀ k, k < 4 → x ≠ al + BitVec.ofNat 20 k) :
    (∀ k, k < 2 → x ≠ al + BitVec.ofNat 20 k) ∧ ∀ k, k < 2 → x ≠ al + 2#20 + BitVec.ofNat 20 k := by
  refine ⟨fun k hk => h k (by omega), fun k hk => ?_⟩
  rw [BitVec.add_assoc, ← BitVec.ofNat_add]
  exact h (2 + k) (by omega)

/-- The state after a halfword of input at `a` has been counted in the entry's fields at `al`. -/
theorem input_counted {s t : State} (hq : s.dma = []) {d : BitVec 4} {al a : Addr} {addr count data : Half}
    (h66 : Apart al 4 66 2) (hal : Apart al 4 a 2) (ha : Apart a 2 66 2)
    (ht : ((s.setHalf 66 addr).moveHalf d true a data).countTable d al (al + 2#20) addr count = t) :
    t.half a = data ∧ t.half al = addr + 2#16 ∧ t.half (al + 2#20) = count - 1#16 ∧ t.half 66 = 0#16 ∧
    (∀ x : Addr, (∀ k, k < 2 → x ≠ a + BitVec.ofNat 20 k) → (∀ k, k < 4 → x ≠ al + BitVec.ofNat 20 k) →
      (∀ k, k < 2 → x ≠ 66 + BitVec.ofNat 20 k) → t.byte x = s.byte x) ∧
    t = { s with mem := t.mem, outbox := t.outbox } ∧
    t.outbox = if count = 1#16 then .zeroCount d :: s.outbox else s.outbox := by
  generalize hu : (s.setHalf 66 addr).moveHalf d true a data = u at ht
  have hmoved : (s.setHalf 66 addr).setHalf a data = u :=
    (State.writeHalf_quiet (by rw [State.setHalf_dma, hq]) a data).symm.trans hu
  obtain ⟨m, hm⟩ : ∃ m, u = { s with mem := m } := by
    obtain ⟨n, hn⟩ := State.setHalf_mem s 66 addr
    rw [← hmoved, hn]
    exact State.setHalf_mem { s with mem := n } a data
  have hdata : u.half a = data := hmoved ▸ State.half_setHalf _ a data
  have hbyte (x : Addr) (h1 : ∀ k, k < 2 → x ≠ a + BitVec.ofNat 20 k) (h3 : ∀ k, k < 2 → x ≠ 66 + BitVec.ofNat 20 k) :
      u.byte x = s.byte x := by
    rw [← hmoved, State.byte_setHalf_out _ _ h1, State.byte_setHalf_out _ _ h3]
  clear hu hmoved
  subst hm
  have hT := tableCounted_next (u := { s with mem := m }) hq d addr count h66
  rw [ht] at hT
  refine ⟨?_, hT.addr_half, hT.count_half, hT.status_half, fun x h1 h2 h3 => ?_, hT.frame, hT.outbox_eq⟩
  · exact (hT.half_eq a (hal.mono (by omega)).symm (hal.part 2 (by omega)).symm ha).trans hdata
  · obtain ⟨ho, hc⟩ := outside_fields h2
    exact (hT.byte_eq x ho hc h3).trans (hbyte x h1 h3)

/-- The state after the halfword of output at `a` has been counted in the entry's fields at `al`. -/
theorem output_counted {s t : State} (hq : s.dma = []) {d : BitVec 4} {al a : Addr} {addr count data : Half}
    (h66 : Apart al 4 66 2) (ha : Apart a 2 66 2)
    (ht : ((s.setHalf 66 addr).moveHalf d false a data).countTable d al (al + 2#20) addr count = t) :
    t.half al = addr + 2#16 ∧ t.half (al + 2#20) = count - 1#16 ∧ t.half 66 = 0#16 ∧
    (∀ x : Addr, (∀ k, k < 4 → x ≠ al + BitVec.ofNat 20 k) → (∀ k, k < 2 → x ≠ 66 + BitVec.ofNat 20 k) →
      t.byte x = s.byte x) ∧
    t = { s with mem := t.mem, outbox := t.outbox } ∧
    t.outbox = if count = 1#16 then .zeroCount d :: .buffered d (s.half a) :: s.outbox
      else .buffered d (s.half a) :: s.outbox := by
  generalize hv : s.setHalf 66 addr = v at ht
  have hvq : v.dma = [] := by rw [← hv, State.setHalf_dma, hq]
  have hdata : v.half a = s.half a := hv ▸ State.half_setHalf_apart s addr ha
  have hmoved : v.moveHalf d false a data = v.send (.buffered d (s.half a)) := by
    rw [State.moveHalf, if_neg Bool.false_ne_true, State.readHalf_quiet hvq, hdata]
  have hbyte (x : Addr) (h3 : ∀ k, k < 2 → x ≠ 66 + BitVec.ofNat 20 k) : v.byte x = s.byte x :=
    hv ▸ State.byte_setHalf_out s addr h3
  obtain ⟨m, hm⟩ : ∃ m, v = { s with mem := m } := ⟨_, hv.symm⟩
  clear hv
  subst hm
  have hT := tableCounted_next (u := State.send { s with mem := m } (.buffered d (s.half a))) hq d addr count h66
  rw [hmoved] at ht
  rw [ht] at hT
  refine ⟨hT.addr_half, hT.count_half, hT.status_half, fun x h2 h3 => ?_, hT.frame, hT.outbox_eq⟩
  obtain ⟨ho, hc⟩ := outside_fields h2
  exact (hT.byte_eq x ho hc h3).trans (hbyte x h3)

/-- A request whose entry counts to zero (R528). -/
theorem State.zeroCountRequest_free {s : State} (d : BitVec 4) (hk : s.pendKey = false) (hp : s.pendIo = none) :
    s.zeroCountRequest d = { s.draw with pendIo := some (zeroCountCode d s.free) } := by
  rw [State.zeroCountRequest, hk, hp]
  rfl

/-- A boundary with a request for a buffered transfer, the entry of the device at `e`. -/
theorem step_buffered {s : State} {w : Half} {p : Payload} {r : List Move} {e : Addr} (hwf : s.params.wf = true)
    (he : s.env = .request w p :: r) (hm : s.mode = .operating) (hq : s.dma = []) (hb : s.chanBusy = false)
    (hburst : s.burst = none) (h0 : w.getLsbD 15 = false) (h2 : w.getLsbD 13 = false) (h12 : w.extractLsb' 0 4 ≠ 0#4)
    (hentry : entryLoc (s.word 72) (w.extractLsb' 4 4) = e) (hi : s.Installed e 8) :
    step s = if s.half (s.entryCountLoc e (w.getLsbD 14)) = 0#16 then
        .next ({ s with env := r }.zeroCountRequest (w.extractLsb' 4 4))
      else { s with env := r }.transferHalf (w.extractLsb' 4 4) e (w.getLsbD 14) (s.half (s.entryAddrLoc e (w.getLsbD 14)))
        (s.half (s.entryCountLoc e (w.getLsbD 14))) p := by
  rw [step_move hwf he]
  exact (State.request_buffered (s := { s with env := r }) p hm hb h0 h2 h12).trans
    (State.buffered_quiet (s := { s with env := r }) hq hburst hentry hi)

/-- Settles O58: the transfer reads the entry, moves the halfword, and stores the entry's fields and the status word. -/
theorem bufferedTransferMovesHalfword : Obligations.BufferedTransferMovesHalfword := by
  intro s w p r d e inA outA apart outside hwf hl hm he hq hb hburst hf h0 h2 h12 hi hstatus
  have hstep := step_buffered (e := e) hwf he hm hq hb hburst h0 h2 h12 rfl hi
  have h66 : Apart e 8 66 2 := hstatus
  obtain ⟨hal, hcl⟩ := State.entryLocs_input hl e
  obtain ⟨hbl, hdl⟩ := State.entryLocs_output hl e
  refine ⟨fun hin hcount hw hea ha => ?input, fun hin hcount hr ha => ?output, fun hzero hk hp => ?zero⟩
  case input =>
    obtain ⟨hpos, hne⟩ := msb_of_one_le hcount
    have hprot : s.cpuProtected inA = false := by simpa using hw.2 0 (by omega)
    rw [hin, hal, hcl, if_neg hne, State.transferHalf_counts (s := { s with env := r }) hq hw.1
      (fun _ => hprot) hf hpos] at hstep
    have hresult := input_counted (s := { s with env := r }) (d := d) (addr := s.half e) (count := s.half (e + 2#20))
      (data := p.data) hq (h66.mono (by omega)) (Apart.mono hea (by omega)) ha rfl
    rw [show State.entryAddrLoc { s with env := r } e true = e from hal,
      show State.entryCountLoc { s with env := r } e true = e + 2#20 from hcl] at hstep
    exact ⟨_, hstep, hresult⟩
  case output =>
    obtain ⟨hpos, hne⟩ := msb_of_one_le hcount
    rw [hin, hbl, hdl, if_neg hne, State.transferHalf_counts (s := { s with env := r }) hq hr
      (fun h => absurd h Bool.false_ne_true) hf hpos] at hstep
    have hresult := output_counted (s := { s with env := r }) (d := d) (addr := s.half (e + 4#20))
      (count := s.half (e + 6#20)) (data := p.data) hq (h66.part 4 (by omega)) ha rfl
    rw [show State.entryAddrLoc { s with env := r } e false = e + 4#20 from hbl,
      show State.entryCountLoc { s with env := r } e false = e + 6#20 from hdl] at hstep
    rw [show e + 4#20 + 2#20 = e + 6#20 by rw [BitVec.add_assoc]; rfl] at hresult
    exact ⟨_, hstep, hresult⟩
  case zero =>
    have hcount : s.half (s.entryCountLoc e (w.getLsbD 14)) = 0#16 := by
      cases hin : w.getLsbD 14
      · rw [hin, if_neg Bool.false_ne_true] at hzero
        rw [hdl, hzero]
      · rw [hin, if_pos rfl] at hzero
        rw [hcl, hzero]
    rw [if_pos hcount, State.zeroCountRequest_free (s := { s with env := r }) _ hk hp] at hstep
    obtain ⟨hdevice, hbit⟩ := zeroCountCode_device d { s with env := r }.free
    exact ⟨_, _, hstep, rfl, hdevice, hbit, rfl⟩

end Sys2Proof.Machine
end

end
